-- ==== Sys2Proof/Word.lean ====
section
/-! DEFINITION. The word types of SDFR: bytes on the bus and in `BUF`, 32-bit words on the command and
response ports (R8, R21, R23). -/

namespace Sys2Proof

/-- One byte (R8: a byte is 8 bits). -/
abbrev Byte := BitVec 8

/-- One word of the command port or of the response port (R21, R23: 32 bits). -/
abbrev Word := BitVec 32

end Sys2Proof
end

