-- ==== Sys2Proof/Syntax.lean ====
section
/-! DEFINITION. The commands of SDFR, one constructor per row of spec/opcode_table.json, and the lines of its
assembler (R81, R83, R92). -/

namespace Sys2Proof

/-- The four commands (R81) with their operands as R83 names them. A range operand is the 2-bit code of
R85; code `0b00` is a legal operand and is answered INVALID_RANGE (R86). -/
inductive Instr where
  /-- `DECAXIS`: decode one axis sample (R104). -/
  | decaxis (rng : BitVec 2) (b0 b1 b2 : Byte)
  /-- `DECTEMP`: linearize one temperature reading (R107). -/
  | dectemp (hi lo : Byte)
  /-- `FIFOCNT`: read the sensor's FIFO entry count (R144). -/
  | fifocnt
  /-- `FIFODRAIN`: read and decode all complete triples of the sensor's FIFO (R152). -/
  | fifodrain (rng : BitVec 2)
  deriving DecidableEq, Repr

/-- The range names of the assembler (R92). `rng0` spells range code 00. -/
inductive RangeName where
  | twoG | fourG | eightG | rng0
  deriving DecidableEq, Repr

/-- One line of assembler source (R92), its literals as the numbers they spell. -/
inductive AsmLine where
  | decaxis (range : RangeName) (b0 b1 b2 : Nat)
  | dectemp (hi lo : Nat)
  | fifocnt
  | fifodrain (range : RangeName)
  /-- `.word`: any 32-bit word, illegal ones included. -/
  | word (literal : Nat)
  deriving DecidableEq, Repr

end Sys2Proof
end

