-- ==== Sys2Proof/WellFormed.lean ====
section
/-! DEFINITION. Which command words are legal (R86), which commands are well formed (all: their operand types
are the field widths), and which assembler lines are (R92: byte literals 0 to 255, a 32-bit word literal). -/

namespace Sys2Proof

/-- `legal(w)` of R86, clause by clause. -/
def legal (w : Word) : Bool :=
  w.extractLsb' 6 2 = 0#2 ∧
    (w.extractLsb' 0 4 = 0x1#4
      ∨ (w.extractLsb' 0 4 = 0x2#4 ∧ w.extractLsb' 4 2 = 0#2 ∧ w.extractLsb' 8 8 = 0#8)
      ∨ (w.extractLsb' 0 4 = 0x3#4 ∧ w.extractLsb' 4 2 = 0#2 ∧ w.extractLsb' 8 24 = 0#24)
      ∨ (w.extractLsb' 0 4 = 0x4#4 ∧ w.extractLsb' 8 24 = 0#24))

/-- Every command is well formed: its operands are exactly the fields R84 marks "any" or "range code", each
with the width of its field (R80), and a field marked "0" is no operand. -/
def Instr.wellFormed : Instr → Bool
  | .decaxis _ _ _ _ => true
  | .dectemp _ _ => true
  | .fifocnt => true
  | .fifodrain _ => true

/-- An assembler line is well formed when its byte literals are 0 to 255 and its word literal fits 32 bits
(R92). -/
def AsmLine.wellFormed : AsmLine → Bool
  | .decaxis _ b0 b1 b2 => b0 < 256 ∧ b1 < 256 ∧ b2 < 256
  | .dectemp hi lo => hi < 256 ∧ lo < 256
  | .fifocnt => true
  | .fifodrain _ => true
  | .word v => v < 4294967296

end Sys2Proof
end

