-- ==== Sys2Proof/Decode.lean ====
section
/-! DEFINITION. The command word (R80): its fields, the decoder, total on any word and rejecting by name, the
encoder, and the assembler's two directions on abstract lines (R92, R93). -/

namespace Sys2Proof

/-- `OP`, bits 3:0 (R80). -/
def opField (w : Word) : BitVec 4 := w.extractLsb' 0 4

/-- `RNG`, bits 5:4 (R80). -/
def rngField (w : Word) : BitVec 2 := w.extractLsb' 4 2

/-- `RSV`, bits 7:6 (R80). -/
def rsvField (w : Word) : BitVec 2 := w.extractLsb' 6 2

/-- `B2`, bits 15:8 (R80). -/
def b2Field (w : Word) : Byte := w.extractLsb' 8 8

/-- `B1`, bits 23:16 (R80). -/
def b1Field (w : Word) : Byte := w.extractLsb' 16 8

/-- `B0`, bits 31:24 (R80). -/
def b0Field (w : Word) : Byte := w.extractLsb' 24 8

/-- `DATA = {B0, B1, B2}`, bits 31:8 (R80). -/
def dataField (w : Word) : BitVec 24 := w.extractLsb' 8 24

/-- Why a word is illegal. Each is answered ILLEGAL_CMD (R87, R184). -/
inductive DecodeError where
  /-- `RSV ≠ 0` (R82). -/
  | reservedBits
  /-- `OP` is 0 or 5 to 15 (R81). -/
  | illegalOp
  /-- `RNG ≠ 0` in a command that takes no range (R84). -/
  | rangeNotZero
  /-- A nonzero operand byte that R84 marks "0". -/
  | dataNotZero
  deriving DecidableEq, Repr

/-- The decoder (R81 to R84, R86). One word is one command (R88). -/
def decode (w : Word) : Except DecodeError Instr :=
  if rsvField w ≠ 0#2 then .error .reservedBits
  else if opField w = 0x1#4 then .ok (.decaxis (rngField w) (b0Field w) (b1Field w) (b2Field w))
  else if opField w = 0x2#4 then
    if rngField w ≠ 0#2 then .error .rangeNotZero
    else if b2Field w ≠ 0#8 then .error .dataNotZero
    else .ok (.dectemp (b0Field w) (b1Field w))
  else if opField w = 0x3#4 then
    if rngField w ≠ 0#2 then .error .rangeNotZero
    else if dataField w ≠ 0#24 then .error .dataNotZero
    else .ok .fifocnt
  else if opField w = 0x4#4 then
    if dataField w ≠ 0#24 then .error .dataNotZero
    else .ok (.fifodrain (rngField w))
  else .error .illegalOp

/-- The instruction the decoder reads from the low `nbits` bits of `w`, numbered as spec/opcode_table.json
numbers them; the bits above are 0. A command is one 32-bit word (R88), so there is nothing to lay out. -/
def decodeTableWord (nbits w : Nat) : Option Instr :=
  if w % 2 ^ nbits < 4294967296 then (decode (BitVec.ofNat 32 (w % 2 ^ nbits))).toOption else none

/-- The `OP` field of a command (R81). -/
def Instr.opCode : Instr → BitVec 4
  | .decaxis _ _ _ _ => 0x1#4
  | .dectemp _ _ => 0x2#4
  | .fifocnt => 0x3#4
  | .fifodrain _ => 0x4#4

/-- The `RNG` field of a command (R84, R85). -/
def Instr.rangeCode : Instr → BitVec 2
  | .decaxis rng _ _ _ => rng
  | .dectemp _ _ => 0#2
  | .fifocnt => 0#2
  | .fifodrain rng => rng

/-- The `DATA` field `{B0, B1, B2}` of a command (R80, R83, R84). -/
def Instr.data : Instr → BitVec 24
  | .decaxis _ b0 b1 b2 => b0 ++ b1 ++ b2
  | .dectemp hi lo => hi ++ lo ++ 0#8
  | .fifocnt => 0#24
  | .fifodrain _ => 0#24

/-- The encoder: the fields at their places, `RSV = 0` (R80, R82). -/
def encode (i : Instr) : Word :=
  i.data ++ 0#2 ++ i.rangeCode ++ i.opCode

/-- The range code an assembler range name stands for (R85, R92). -/
def RangeName.code : RangeName → BitVec 2
  | .rng0 => 0b00#2
  | .twoG => 0b01#2
  | .fourG => 0b10#2
  | .eightG => 0b11#2

/-- The range name that spells a range code (R85, R92). -/
def RangeName.ofCode (c : BitVec 2) : RangeName :=
  if c = 0b01#2 then .twoG
  else if c = 0b10#2 then .fourG
  else if c = 0b11#2 then .eightG
  else .rng0

/-- The assembler on a line (R92); none where a literal does not fit. -/
def assemble (l : AsmLine) : Option Word :=
  if l.wellFormed then
    match l with
    | .decaxis r b0 b1 b2 =>
        some (encode (.decaxis r.code (BitVec.ofNat 8 b0) (BitVec.ofNat 8 b1) (BitVec.ofNat 8 b2)))
    | .dectemp hi lo => some (encode (.dectemp (BitVec.ofNat 8 hi) (BitVec.ofNat 8 lo)))
    | .fifocnt => some (encode .fifocnt)
    | .fifodrain r => some (encode (.fifodrain r.code))
    | .word v => some (BitVec.ofNat 32 v)
  else none

/-- The assembler line of a command (R92). -/
def Instr.toLine : Instr → AsmLine
  | .decaxis rng b0 b1 b2 => .decaxis (RangeName.ofCode rng) b0.toNat b1.toNat b2.toNat
  | .dectemp hi lo => .dectemp hi.toNat lo.toNat
  | .fifocnt => .fifocnt
  | .fifodrain rng => .fifodrain (RangeName.ofCode rng)

/-- The disassembler: a legal word is its one line, an illegal word is a `.word` (R93). -/
def disassemble (w : Word) : AsmLine :=
  match decode w with
  | .ok i => i.toLine
  | .error _ => .word w.toNat

end Sys2Proof
end

