-- ==== Sys2Proof/Config.lean ====
section
/-! DEFINITION. The fixed parameters of R6, the sensor's register map of R51, the bus adapter's `BUS_CFG`
of R7, and the free values: what the spec leaves open, as constants without a body. -/

namespace Sys2Proof.Config

/-- `ADDR_FIFO_ENTRIES` (R6, R51). -/
def addrFifoEntries : BitVec 7 := 0x05#7

/-- `ADDR_FIFO_DATA` (R6, R51). -/
def addrFifoData : BitVec 7 := 0x11#7

/-- `READ_BIT` (R6). -/
def readBit : BitVec 1 := 1#1

/-- `WRITE_BIT` (R6). -/
def writeBit : BitVec 1 := 0#1

/-- `DUMMY_BYTE` (R6). -/
def dummyByte : Byte := 0xAA#8

/-- `MAX_USABLE`, entries (R6). -/
def maxUsable : Nat := 255

/-- `MAX_TRIPLES` (R6). -/
def maxTriples : Nat := 85

/-- `BUF_BYTES` (R6); the length of `BUF` in State. -/
abbrev bufBytes : Nat := 765

/-- `RSPQ_MAX`, words (R6). -/
def rspqMax : Nat := 257

/-- `MEASURE_MODE`, the byte the device controller writes to POWER_CTL (R51, R55); SDFR never does. -/
def measureMode : Byte := 0x06#8

/-- `BUS_CFG` of the bus adapter (R7, D35): SPI clock in Hz and SPI mode. No rule depends on it. -/
def busCfg : Nat × Nat := (10000000, 0)

/-- The registers of the sensor that the source names (R51). They belong to the sensor; SDFR reads only
`fifoEntries` and `fifoData` (R59). -/
inductive SensorReg where
  | devid | fifoEntries | temp2 | temp1
  | xdata3 | xdata2 | xdata1 | ydata3 | ydata2 | ydata1 | zdata3 | zdata2 | zdata1
  | fifoData | range | powerCtl | selfTest
  deriving DecidableEq, Repr

/-- The register map, "must be reproduced byte-for-byte" (R51). -/
def SensorReg.address : SensorReg → BitVec 7
  | .devid => 0x00#7
  | .fifoEntries => 0x05#7
  | .temp2 => 0x06#7
  | .temp1 => 0x07#7
  | .xdata3 => 0x08#7
  | .xdata2 => 0x09#7
  | .xdata1 => 0x0A#7
  | .ydata3 => 0x0B#7
  | .ydata2 => 0x0C#7
  | .ydata1 => 0x0D#7
  | .zdata3 => 0x0E#7
  | .zdata2 => 0x0F#7
  | .zdata1 => 0x10#7
  | .fifoData => 0x11#7
  | .range => 0x2C#7
  | .powerCtl => 0x2D#7
  | .selfTest => 0x2E#7

/-- DESIGN CHOICE, log entry 2 (safe): `OPL` after the `n`-th reset step of a run (R45, R210: unspecified). -/
opaque freeOpl : Nat → BitVec 4

/-- DESIGN CHOICE, log entry 2 (safe): `RNGL` after the `n`-th reset step of a run (R45, R210: unspecified). -/
opaque freeRngl : Nat → BitVec 2

/-- DESIGN CHOICE, log entry 2 (safe): `DATAL` after the `n`-th reset step of a run (R45, R210: unspecified). -/
opaque freeDatal : Nat → BitVec 24

/-- DESIGN CHOICE, log entry 2 (safe): `CNT` after the `n`-th reset step of a run (R45, R210: unspecified). -/
opaque freeCnt : Nat → BitVec 8

/-- DESIGN CHOICE, log entry 2 (safe): `USABLE` after the `n`-th reset step of a run (R45, R210: unspecified). -/
opaque freeUsable : Nat → BitVec 8

/-- DESIGN CHOICE, log entry 2 (safe): byte `i` of `BUF` after the `n`-th reset step of a run (R45, R210:
unspecified). -/
opaque freeBufByte : Nat → Nat → Byte

/-- DESIGN CHOICE, log entry 15 (safe): what the scaler gives for range code `0b00`, for which R102 gives
neither a shift nor a divisor. Every use is guarded (R102), so no run reaches it. -/
opaque freeScale : Int → Int

end Sys2Proof.Config
end

