-- ==== Sys2Proof/Machine/Operands.lean ====
section
/-! DEFINITION. The datapath on operand values: unpacker, sign extension, scaler, temperature assembly, the
temperature ROM, the batch decoder, and the words a response carries (R100 to R106, R146, R150, R151). -/

namespace Sys2Proof.Machine

/-- `word32(v)`, the 32-bit two's-complement encoding of an integer (R9). -/
def word32 (v : Int) : Word := BitVec.ofInt 32 v

/-- `unpack(b0, b1, b2)` (R100): `b0` is bits 19:12, `b1` bits 11:4, `b2[7:4]` bits 3:0. -/
def unpack (b0 b1 b2 : Byte) : BitVec 20 := b0 ++ b1 ++ b2.extractLsb' 4 4

/-- `sx20(u)`, the 20-bit value as two's complement (R101). -/
def sx20 (u : BitVec 20) : Int := u.toInt

/-- `SHIFT(c)`, defined only for the three valid range codes (R102). -/
def shiftOf (c : BitVec 2) : Option Nat :=
  if c = 0b01#2 then some 0
  else if c = 0b10#2 then some 1
  else if c = 0b11#2 then some 2
  else none

/-- `DIV(c)`, counts per g, defined only for the three valid range codes (R102). -/
def divOf (c : BitVec 2) : Option Nat :=
  if c = 0b01#2 then some 256000
  else if c = 0b10#2 then some 128000
  else if c = 0b11#2 then some 64000
  else none

/-- `scale(s20, c) = s20 << SHIFT(c)` (R103), in units of 1/256000 g. DESIGN CHOICE, log entry 15 (safe): for
code `0b00`, which has no shift, a free value. -/
def scale (s20 : Int) (c : BitVec 2) : Int :=
  match shiftOf c with
  | some k => s20 * 2 ^ k
  | none => Config.freeScale s20

/-- The value of one entry, unpacked, sign-extended and scaled (R104, R150). -/
def axisValue (c : BitVec 2) (b0 b1 b2 : Byte) : Int := scale (sx20 (unpack b0 b1 b2)) c

/-- `traw(hi, lo)`, the 12-bit raw temperature (R105): `hi[7:4]` is discarded. -/
def traw (hi lo : Byte) : BitVec 12 := hi.extractLsb' 0 4 ++ lo

/-- `TLUT[r]` as an integer, the floor form of R106 (`/` on integers with a positive divisor is the floor). -/
def tlutInt (r : BitVec 12) : Int := ((41565 - 20 * (r.toNat : Int)) * 131072 + 181) / 362

/-- `TLUT[r]`, the 32-bit ROM entry (R41, R106; log entry 12). -/
def tlut (r : BitVec 12) : Word := word32 (tlutInt r)

/-- `CNT − (CNT mod 3)` (R146). -/
def usableOf (cnt : BitVec 8) : BitVec 8 := BitVec.ofNat 8 (cnt.toNat - cnt.toNat % 3)

/-- The length in bytes of the FIFO_DATA burst, `3·USABLE` (R148). -/
def burstBytes (usable : BitVec 8) : Nat := 3 * usable.toNat

/-- The values of the entries of a burst, in strides of 3 bytes (R150). -/
def entryValues (c : BitVec 2) : List Byte → List Int
  | b0 :: b1 :: b2 :: rest => axisValue c b0 b1 b2 :: entryValues c rest
  | _ => []

/-- `P1` of a drain, `(CNT << 8) | N` (R151; with `N = 0` in R147). -/
def drainWord (cnt n : BitVec 8) : Word := 0#16 ++ cnt ++ n

/-- The number of triples, `N = USABLE / 3` (R146). -/
def tripleCount (usable : BitVec 8) : BitVec 8 := BitVec.ofNat 8 (usable.toNat / 3)

/-- The payload of a drain, `batch(CNT, USABLE, RNGL, BUF)` (R151), with the first `3·USABLE` bytes of `BUF`
given. -/
def batch (cnt usable : BitVec 8) (c : BitVec 2) (bytes : List Byte) : List Word :=
  drainWord cnt (tripleCount usable) :: (entryValues c bytes).map word32

/-- `BUF` after a burst has landed in its first bytes (R149). DEDUCED, log entry 19: the bytes past the
burst keep their value. -/
def fillFirst (bytes : List Byte) (buf : Vector Byte Config.bufBytes) : Vector Byte Config.bufBytes :=
  ⟨((bytes ++ buf.toList.drop bytes.length).take Config.bufBytes).toArray, by
    have h : buf.toList.length = Config.bufBytes := buf.length_toList
    simp only [List.size_toArray, List.length_take, List.length_append, List.length_drop]
    omega⟩

end Sys2Proof.Machine
end

