-- ==== Sys2Proof/Machine/Flags.lean ====
section
/-! DEFINITION. SDFR has no flags and no condition codes (R42): the outcome of a command is the status in
its response header. Here are the status codes (R180) and the header word (R89). -/

namespace Sys2Proof.Machine

/-- The statuses a response can carry (R180). -/
inductive Status where
  | ok | busError | invalidRange | notReady | illegalCmd
  deriving DecidableEq, Repr

/-- The status codes (R180). -/
def statusCode : Status → BitVec 3
  | .ok => 0#3
  | .busError => 1#3
  | .invalidRange => 2#3
  | .notReady => 3#3
  | .illegalCmd => 4#3

/-- The header word (R89): `PLEN` in bits 31:16, 0 in 15:7, `STATUS` in 6:4, `OP` in 3:0. -/
def header (plen : Nat) (status : Status) (op : BitVec 4) : Word :=
  BitVec.ofNat 16 plen ++ 0#9 ++ statusCode status ++ op

/-- The `PLEN` field of a header (R89). -/
def headerPlen (h : Word) : BitVec 16 := h.extractLsb' 16 16

/-- The `STATUS` field of a header (R89). -/
def headerStatus (h : Word) : BitVec 3 := h.extractLsb' 4 3

/-- The `OP` field of a header (R89). -/
def headerOp (h : Word) : BitVec 4 := h.extractLsb' 0 4

end Sys2Proof.Machine
end

