-- ==== Sys2Proof/Machine/State.lean ====
section
/-! DEFINITION. The state of the machine: the registers of the block (R31 to R38), the levels of its input
ports (R21 to R29), the moves the agents are about to make (R11, R20), and the state after reset (R45). -/

namespace Sys2Proof.Machine

/-- The values of `ST` (R31). Codes 5 to 7 are never entered and stand for no value here (I1; log entry 11). -/
inductive SeqState where
  | idle | lockWait | cntWait | burstWait | resp
  deriving DecidableEq, Repr

/-- A pending bus request, `(addr: u7, len: u10)` (R38). -/
structure BusRequest where
  addr : BitVec 7
  len : BitVec 10
  deriving DecidableEq, Repr

/-- An answer of the bus adapter, `Ok(b)` or `Err` (R26). -/
inductive BusAnswer where
  | err
  | ok (bytes : List Byte)
  deriving DecidableEq, Repr

/-- One move of one of the five agents (R11, R20). -/
inductive Event where
  /-- The SDFR sequencer takes its step. -/
  | sdfr
  /-- The host offers a command word: `cmd_valid = 1`, `cmd_word = w` (R21). -/
  | offer (w : Word)
  /-- The host withdraws its offer: `cmd_valid = 0` (R21). -/
  | withdraw
  /-- The host drives `rsp_ready` (R23). -/
  | hostReady (level : Bool)
  /-- The bus adapter answers (R26). -/
  | answer (a : BusAnswer)
  /-- The device controller drives `dev_ready` (R27). -/
  | controllerReady (level : Bool)
  /-- The device controller drives `bus_lock_gnt` (R28). -/
  | grant (level : Bool)
  /-- Reset drives `rst` (R29). -/
  | reset (level : Bool)
  deriving DecidableEq, Repr

/-- The state. Registers and ports under the spec's names; the last two fields are the model's own. -/
structure State where
  /-- `ST` (R31). -/
  st : SeqState
  /-- `OPL` (R32). -/
  opl : BitVec 4
  /-- `RNGL` (R32). -/
  rngl : BitVec 2
  /-- `DATAL` (R32). -/
  datal : BitVec 24
  /-- `CNT` (R33). -/
  cnt : BitVec 8
  /-- `USABLE` (R34). -/
  usable : BitVec 8
  /-- `BUF` (R35). -/
  buf : Vector Byte Config.bufBytes
  /-- `RSPQ` (R36), head first. -/
  rspq : List Word
  /-- `LOCK` (R37). -/
  lock : Bool
  /-- `BREQ` (R38). -/
  breq : Option BusRequest
  /-- `cmd_valid` (R21). -/
  cmdValid : Bool
  /-- `cmd_word` (R21). -/
  cmdWord : Word
  /-- `rsp_ready` (R23). -/
  rspReady : Bool
  /-- `bresp_valid`, `bresp_err`, `bresp_len` and `bresp_data` as one answer (R26). -/
  bresp : Option BusAnswer
  /-- `dev_ready` (R27). -/
  devReady : Bool
  /-- `bus_lock_gnt` (R28). -/
  busLockGnt : Bool
  /-- `rst` (R29). -/
  rst : Bool
  /-- DESIGN CHOICE, log entry 4 (safe): the agents' moves to come, first one first; when none is left the
  sequencer moves. -/
  agenda : List Event
  /-- DESIGN CHOICE, log entry 2 (safe): how many reset steps have drawn free values. -/
  draws : Nat
  deriving DecidableEq, Repr

/-- What could stop the machine: nothing. The spec gives SDFR no trap and no state in which a defined step
is missing (R189, R140, R159); every error is the status of a response (R180). Nobody raises one. -/
inductive Fault where
  deriving DecidableEq, Repr

/-- Why an instruction would have no meaning. -/
inductive Refusal where
  /-- Raised only by an arm of `exec` whose instruction has no meaning yet (safe); no arm does. -/
  | notModelled (mnemonic : String)
  deriving DecidableEq, Repr

/-- The machine right after reset (R45). `ST`, `RSPQ`, `LOCK` and `BREQ` as R45 gives them. DESIGN CHOICE,
log entry 1 (unsafe): the registers R45 calls unspecified hold 0. DESIGN CHOICE, log entry 3 (unsafe): every
input port is low or empty, and no agent has a move pending. -/
def State.reset : State where
  st := .idle
  opl := 0#4
  rngl := 0#2
  datal := 0#24
  cnt := 0#8
  usable := 0#8
  buf := Vector.replicate Config.bufBytes 0#8
  rspq := []
  lock := false
  breq := none
  cmdValid := false
  cmdWord := 0#32
  rspReady := false
  bresp := none
  devReady := false
  busLockGnt := false
  rst := false
  agenda := []
  draws := 0

end Sys2Proof.Machine
end

