-- ==== Sys2Proof/Machine/Ops.lean ====
section
/-! DEFINITION. The named operations on the state that the rules' pseudocode uses (R10): latch, `Emit`,
`raise` (taking an error, R188), the response step (the return from it, R158, R190), the lock, `BusRead`'s
issue and answer (R56), the writes of `CNT`, `USABLE` and `BUF`, the reset step (R210); and the outputs (R39). -/

namespace Sys2Proof.Machine

/-- The code of a value of `ST` (R31). -/
def seqCode : SeqState → BitVec 3
  | .idle => 0#3
  | .lockWait => 1#3
  | .cntWait => 2#3
  | .burstWait => 3#3
  | .resp => 4#3

/-- Latch the accepted command (R141, R32). -/
def latch (op : BitVec 4) (rng : BitVec 2) (data : BitVec 24) (s : State) : State :=
  { s with opl := op, rngl := rng, datal := data }

/-- `Emit(status, payload)` (R90): the header echoes `OPL`. -/
def emit (status : Status) (payload : List Word) (s : State) : State :=
  { s with rspq := header payload.length status s.opl :: payload, st := .resp }

/-- `LOCK <- 1` and wait for the grant (R142, R66). -/
def requestLock (s : State) : State := { s with lock := true, st := .lockWait }

/-- `LOCK <- 0` (R157). -/
def releaseLock (s : State) : State := { s with lock := false }

/-- The issue of `BusRead(addr, n)`: `BREQ <- (addr, n)`, then the state that waits for the answer (R56). -/
def issueRead (addr : BitVec 7) (n : Nat) (next : SeqState) (s : State) : State :=
  { s with breq := some ⟨addr, BitVec.ofNat 10 n⟩, st := next }

/-- The consumption of an answer: `BREQ <- none` (R38, R56), and the answer is gone from the port (R25: each
request is answered exactly once; log entry 6). -/
def consumeAnswer (s : State) : State := { s with breq := none, bresp := none }

/-- `raise status`, the error entry shared by every command (R10, R188): one header word and no payload,
`ST <- RESP`, `LOCK <- 0`, `BREQ <- none`; nothing else changes (log entry 18). -/
def raise (status : Status) (s : State) : State :=
  emit status [] { s with lock := false, breq := none }

/-- `CNT <- c` (R143). -/
def writeCnt (c : BitVec 8) (s : State) : State := { s with cnt := c }

/-- `USABLE <- CNT − (CNT mod 3)` (R145, R146). -/
def writeUsable (s : State) : State := { s with usable := usableOf s.cnt }

/-- `BUF[0 .. n−1] <- b` (R149). -/
def writeBuf (bytes : List Byte) (s : State) : State := { s with buf := fillFirst bytes s.buf }

/-- The first `3·USABLE` bytes of `BUF`, the meaningful ones (R35, R150). -/
def burstData (s : State) : List Byte := s.buf.toList.take (burstBytes s.usable)

/-- Take the head of `RSPQ` (R158): the state stays `RESP` while words remain, else it is `IDLE`. This is
also the return from an error (R190). -/
def takeWord (s : State) : State :=
  { s with rspq := s.rspq.tail, st := if s.rspq.tail = [] then .idle else .resp }

/-- The `RESP` step (R158): enabled when `rsp_ready = 1`, else SDFR waits (R159; log entries 5, 9). -/
def respStep (s : State) : State := if s.rspReady then takeWord s else s

/-- The reset step (R210, R45), whatever the state was. The registers R45 calls unspecified take free values
(DESIGN CHOICE, log entry 2, safe). DEDUCED, log entry 6: the bus adapter is reset with SDFR (R211, R216), so
no answer to the withdrawn request stays on the port. The other input ports are not the block's to change. -/
def resetStep (s : State) : State :=
  { s with
    st := .idle
    rspq := []
    lock := false
    breq := none
    bresp := none
    opl := Config.freeOpl s.draws
    rngl := Config.freeRngl s.draws
    datal := Config.freeDatal s.draws
    cnt := Config.freeCnt s.draws
    usable := Config.freeUsable s.draws
    buf := Vector.ofFn fun i => Config.freeBufByte s.draws i.val
    draws := s.draws + 1 }

/-- `cmd_ready` (R39). -/
def cmdReady (s : State) : Bool := s.st = .idle

/-- `rsp_valid` (R39). -/
def rspValid (s : State) : Bool := s.st = .resp

/-- `rsp_word`, defined when `ST = RESP` (R39). -/
def rspWord (s : State) : Option Word := if s.st = .resp then s.rspq.head? else none

/-- `rsp_last` (R39). -/
def rspLast (s : State) : Bool := s.rspq.length = 1

/-- `bus_lock_req` (R39). -/
def busLockReq (s : State) : Bool := s.lock

/-- `breq_valid` (R39). -/
def breqValid (s : State) : Bool := s.breq.isSome

/-- `breq_rw`, always a read (R25, R39). -/
def breqRw (_ : State) : BitVec 1 := Config.readBit

/-- `breq_addr` of a pending request (R25, R38). -/
def breqAddr (s : State) : Option (BitVec 7) := s.breq.map (·.addr)

/-- `breq_len` of a pending request (R25, R38). -/
def breqLen (s : State) : Option (BitVec 10) := s.breq.map (·.len)

end Sys2Proof.Machine
end

