-- ==== Sys2Proof/Machine/Waits.lean ====
section
/-! DEFINITION. The rows of the transition table (R140) other than the accept row: the steps of a command in
progress, by the registers alone. -/

namespace Sys2Proof.Machine

/-- The `LOCK_WAIT` step (R142): enabled when `bus_lock_gnt = 1`, else SDFR waits (R159; log entry 5). -/
def lockWaitStep (s : State) : State :=
  if s.busLockGnt then issueRead Config.addrFifoEntries 1 .cntWait s else s

/-- The end of a FIFOCNT, its count in `CNT` (R143, R144). -/
def deliverCount (s : State) : State :=
  emit .ok [s.cnt.setWidth 32] (releaseLock s)

/-- The continuation of a FIFODRAIN, its count in `CNT` (R145): an empty batch without a burst (R147), or the
one burst of `3·USABLE` bytes (R148). -/
def continueDrain (s : State) : State :=
  let s := writeUsable s
  if s.usable = 0#8 then emit .ok [drainWord s.cnt 0#8] (releaseLock s)
  else issueRead Config.addrFifoData (burstBytes s.usable) .burstWait s

/-- The count has arrived (R143). DEDUCED, log entry 14: every command but FIFOCNT goes on as FIFODRAIN,
which R143's `else` says; only the two FIFO commands reach this step. -/
def countArrived (c : BitVec 8) (s : State) : State :=
  if s.opl = 0x3#4 then deliverCount (writeCnt c s) else continueDrain (writeCnt c s)

/-- The `CNT_WAIT` step (R143): enabled when an answer is present; an error or an answer that is not one byte
is a BUS_ERROR (R56, R181). -/
def cntWaitStep (s : State) : State :=
  match s.bresp with
  | none => s
  | some (.ok [c]) => countArrived c (consumeAnswer s)
  | some _ => raise .busError (consumeAnswer s)

/-- The burst has arrived whole (R149): it lands in `BUF`, then the batch is decoded from `BUF` (R150, R151). -/
def deliverBatch (bytes : List Byte) (s : State) : State :=
  let s := writeBuf bytes s
  emit .ok (batch s.cnt s.usable s.rngl (burstData s)) (releaseLock s)

/-- The `BURST_WAIT` step (R149): enabled when an answer is present; an error or an answer of another length
is a BUS_ERROR and nothing of the batch (R155, R181). -/
def burstWaitStep (s : State) : State :=
  match s.bresp with
  | none => s
  | some .err => raise .busError (consumeAnswer s)
  | some (.ok bytes) =>
    if bytes.length = burstBytes s.usable then deliverBatch bytes (consumeAnswer s)
    else raise .busError (consumeAnswer s)

/-- The step of the command in progress (R140); in `IDLE` there is none. -/
def proceed (s : State) : State :=
  match s.st with
  | .idle => s
  | .lockWait => lockWaitStep s
  | .cntWait => cntWaitStep s
  | .burstWait => burstWaitStep s
  | .resp => respStep s

/-- A command at the port (R22): accepted in `IDLE`, where its accept step runs; in every other state it is
not accepted, and the block takes the step of the command in progress (DESIGN CHOICE, log entry 13, safe). -/
def offered (accept : State → State) (s : State) : State :=
  match s.st with
  | .idle => accept s
  | _ => proceed s

end Sys2Proof.Machine
end

