-- ==== Sys2Proof/Machine/Decoder.lean ====
section
/-! DEFINITION. The meanings of the decode commands, DECAXIS (R104) and DECTEMP (R107): they end in the accept
step and touch no bus, no lock and no `dev_ready` (R112). -/

namespace Sys2Proof.Machine

/-- The accept step of DECAXIS (R141, R104). -/
def acceptDecaxis (rng : BitVec 2) (b0 b1 b2 : Byte) (s : State) : State :=
  let s := latch 0x1#4 rng (b0 ++ b1 ++ b2) s
  if rng = 0b00#2 then raise .invalidRange s
  else emit .ok [word32 (sx20 (unpack b0 b1 b2)), word32 (axisValue rng b0 b1 b2)] s

/-- The meaning of DECAXIS (R104). -/
def execDecaxis (rng : BitVec 2) (b0 b1 b2 : Byte) (s : State) : Host.Outcome State Fault Refusal :=
  .next (offered (acceptDecaxis rng b0 b1 b2) s)

/-- The accept step of DECTEMP (R141, R107). -/
def acceptDectemp (hi lo : Byte) (s : State) : State :=
  let r := traw hi lo
  emit .ok [r.setWidth 32, tlut r] (latch 0x2#4 0#2 (hi ++ lo ++ 0#8) s)

/-- The meaning of DECTEMP (R107). -/
def execDectemp (hi lo : Byte) (s : State) : Host.Outcome State Fault Refusal :=
  .next (offered (acceptDectemp hi lo) s)

end Sys2Proof.Machine
end

