-- ==== Sys2Proof/Machine/FifoReader.lean ====
section
/-! DEFINITION. The meanings of the FIFO commands, FIFOCNT (R144) and FIFODRAIN (R152): the accept step with
its checks (R142), then the steps of Machine/Waits.lean. -/

namespace Sys2Proof.Machine

/-- The accept step of FIFOCNT (R141, R142): NOT_READY without a lock or a transfer, else the lock request. -/
def acceptFifocnt (s : State) : State :=
  let s := latch 0x3#4 0#2 0#24 s
  if s.devReady then requestLock s else raise .notReady s

/-- The meaning of FIFOCNT (R144). -/
def execFifocnt (s : State) : Host.Outcome State Fault Refusal :=
  .next (offered acceptFifocnt s)

/-- The accept step of FIFODRAIN (R141, R142): readiness is checked before the range (R187), both before any
lock or transfer. -/
def acceptFifodrain (rng : BitVec 2) (s : State) : State :=
  let s := latch 0x4#4 rng 0#24 s
  if s.devReady then
    if rng = 0b00#2 then raise .invalidRange s else requestLock s
  else raise .notReady s

/-- The meaning of FIFODRAIN (R152). -/
def execFifodrain (rng : BitVec 2) (s : State) : Host.Outcome State Fault Refusal :=
  .next (offered (acceptFifodrain rng) s)

end Sys2Proof.Machine
end

