-- ==== Sys2Proof/Machine/Dispatch.lean ====
section
/-! DEFINITION. One arm per command: the step SDFR takes with that command at its port. -/

namespace Sys2Proof.Machine

def exec (i : Instr) (s : State) : Host.Outcome State Fault Refusal :=
  match i with
  | .decaxis rng b0 b1 b2 => Sys2Proof.Machine.execDecaxis rng b0 b1 b2 s
  | .dectemp hi lo => Sys2Proof.Machine.execDectemp hi lo s
  | .fifocnt => Sys2Proof.Machine.execFifocnt s
  | .fifodrain rng => Sys2Proof.Machine.execFifodrain rng s

end Sys2Proof.Machine
end

