-- ==== Sys2Proof/Machine/Sequencer.lean ====
section
/-! DEFINITION. The sequencer's step (R140, R141, R210) and the moves of the other agents (R11, R20). -/

namespace Sys2Proof.Machine

/-- The accept step of an illegal word (R87, R141, R184): latched, then ILLEGAL_CMD, whatever else holds. -/
def rejectWord (w : Word) (s : State) : State :=
  raise .illegalCmd (latch (opField w) (rngField w) (dataField w) s)

/-- The accept step (R141). -/
def acceptWord (w : Word) (s : State) : Host.Outcome State Fault Refusal :=
  match decode w with
  | .ok i => exec i s
  | .error _ => .next (rejectWord w s)

/-- The sequencer's step: reset has priority over every other step (R210), a word is accepted in `IDLE`
(R22, R141), and every other state takes its row of R140. A wait is a step that changes nothing (R159;
DESIGN CHOICE, log entry 5, safe). DEDUCED, log entry 8: accepting does not change the host's own signals. -/
def sdfrStep (s : State) : Host.Outcome State Fault Refusal :=
  if s.rst then .next (resetStep s)
  else match s.st with
    | .idle => if s.cmdValid then acceptWord s.cmdWord s else .next s
    | _ => .next (proceed s)

/-- An answer arrives (R26): ignored, with no state change, while no request is pending (R211); else it stands
on the port until SDFR consumes it (DEDUCED, log entry 6). -/
def answerArrives (a : BusAnswer) (s : State) : State :=
  if s.breq.isSome then { s with bresp := some a } else s

/-- The move of one agent (R11, R20). -/
def agentMove (e : Event) (s : State) : Host.Outcome State Fault Refusal :=
  match e with
  | .sdfr => sdfrStep s
  | .offer w => .next { s with cmdValid := true, cmdWord := w }
  | .withdraw => .next { s with cmdValid := false }
  | .hostReady level => .next { s with rspReady := level }
  | .answer a => .next (answerArrives a s)
  | .controllerReady level => .next { s with devReady := level }
  | .grant level => .next { s with busLockGnt := level }
  | .reset level => .next { s with rst := level }

end Sys2Proof.Machine
end

