-- ==== Sys2Proof/Machine/Step.lean ====
section
/-! DEFINITION. One step of the machine (R11): the first move of the agenda, or the sequencer's step when the
agenda is empty. -/

namespace Sys2Proof.Machine

/-- One step (R11; DESIGN CHOICE, log entry 4, safe: the agenda says which agent moves next). -/
def step (s : State) : Host.Outcome State Fault Refusal :=
  match s.agenda with
  | [] => sdfrStep s
  | e :: rest => agentMove e { s with agenda := rest }

/-- `s` with the word `w` of `nbits` bits at the command port, and with what its acceptance by the very next
step takes: the sequencer to move, reset released, `ST = IDLE` (R22, R141; log entry 16). -/
def State.withFetchWord (s : State) (nbits w : Nat) : State :=
  { s with agenda := [], rst := false, st := .idle, cmdValid := true, cmdWord := BitVec.ofNat 32 (w % 2 ^ nbits) }

end Sys2Proof.Machine
end

