-- ==== Sys2Proof/Machine/Assembler.lean ====
section
/-! DEFINITION. The assembler's text (R92): one command per line, upper-case mnemonics, operands separated by
commas, literals in decimal or `0x` hex. DESIGN CHOICE, log entry 21 (safe): blanks may stand around every
mnemonic and operand, R92's semicolon remarks are not part of a line, and a `.word` literal is spelled as a
byte literal is. -/

namespace Sys2Proof.Assembler

/-- A space or a tab. -/
def isBlank (c : Char) : Bool := c = ' ' ∨ c = '\t'

/-- `cs` without its leading blanks. -/
def skipBlanks : List Char → List Char
  | [] => []
  | c :: cs => if isBlank c then skipBlanks cs else c :: cs

/-- `cs` without its leading and trailing blanks. -/
def trim (cs : List Char) : List Char := (skipBlanks (skipBlanks cs).reverse).reverse

/-- The characters before the first one that meets `p`, and the rest from there. -/
def breakAt (p : Char → Bool) : List Char → List Char × List Char
  | [] => ([], [])
  | c :: cs => if p c then ([], c :: cs) else ((c :: (breakAt p cs).1), (breakAt p cs).2)

/-- The parts of `cs` between commas, at least one. -/
def splitCommas : List Char → List (List Char)
  | [] => [[]]
  | c :: cs =>
    match splitCommas cs with
    | [] => [[c]]
    | part :: parts => if c = ',' then [] :: part :: parts else (c :: part) :: parts

/-- The value of a digit in a base up to 16. -/
def digit (base : Nat) (c : Char) : Option Nat :=
  let d :=
    if '0' ≤ c ∧ c ≤ '9' then some (c.toNat - '0'.toNat)
    else if 'a' ≤ c ∧ c ≤ 'f' then some (c.toNat - 'a'.toNat + 10)
    else if 'A' ≤ c ∧ c ≤ 'F' then some (c.toNat - 'A'.toNat + 10)
    else none
  d.filter (· < base)

/-- The number a run of digits spells after `acc`. -/
def digits (base : Nat) : Nat → List Char → Option Nat
  | acc, [] => some acc
  | acc, c :: cs => (digit base c).bind fun d => digits base (acc * base + d) cs

/-- A literal, decimal or `0x` hex (R92). -/
def literal : List Char → Option Nat
  | [] => none
  | ['0', 'x'] => none
  | '0' :: 'x' :: cs => digits 16 0 cs
  | cs => digits 10 0 cs

/-- A range name, one of 2G, 4G, 8G, RNG0 (R92). -/
def rangeName (cs : List Char) : Option RangeName :=
  if cs = ['2', 'G'] then some .twoG
  else if cs = ['4', 'G'] then some .fourG
  else if cs = ['8', 'G'] then some .eightG
  else if cs = ['R', 'N', 'G', '0'] then some .rng0
  else none

/-- The line with mnemonic `m` and operands `ops` (R92). -/
def lineOf (m : List Char) (ops : List (List Char)) : Option AsmLine :=
  if m = "DECAXIS".toList then
    match ops with
    | [r, b0, b1, b2] => do
        return .decaxis (← rangeName r) (← literal b0) (← literal b1) (← literal b2)
    | _ => none
  else if m = "DECTEMP".toList then
    match ops with
    | [hi, lo] => do return .dectemp (← literal hi) (← literal lo)
    | _ => none
  else if m = "FIFOCNT".toList then
    match ops with
    | [[]] => some .fifocnt
    | _ => none
  else if m = "FIFODRAIN".toList then
    match ops with
    | [r] => do return .fifodrain (← rangeName r)
    | _ => none
  else if m = ".word".toList then
    match ops with
    | [v] => do return .word (← literal v)
    | _ => none
  else none

/-- Read one line of text. -/
def parseLine (text : List Char) : Option AsmLine :=
  let (m, rest) := breakAt isBlank (skipBlanks text)
  lineOf m ((splitCommas rest).map trim)

/-- The word a line of text assembles to (R92). -/
def assembleText (text : List Char) : Option Word := (parseLine text).bind assemble

/-- The decimal spelling of a number below `10 ^ (fuel + 1)`. -/
def decimal : Nat → Nat → List Char
  | 0, n => [Char.ofNat ('0'.toNat + n % 10)]
  | fuel + 1, n => if n < 10 then [Char.ofNat ('0'.toNat + n)]
    else decimal fuel (n / 10) ++ [Char.ofNat ('0'.toNat + n % 10)]

/-- The spelling of a range name (R92). -/
def rangeText : RangeName → List Char
  | .twoG => "2G".toList
  | .fourG => "4G".toList
  | .eightG => "8G".toList
  | .rng0 => "RNG0".toList

/-- The text of a line, its literals in decimal (R92, R93). -/
def lineText : AsmLine → List Char
  | .decaxis r b0 b1 b2 => "DECAXIS ".toList ++ rangeText r ++ ", ".toList ++ decimal 9 b0 ++ ", ".toList
      ++ decimal 9 b1 ++ ", ".toList ++ decimal 9 b2
  | .dectemp hi lo => "DECTEMP ".toList ++ decimal 9 hi ++ ", ".toList ++ decimal 9 lo
  | .fifocnt => "FIFOCNT".toList
  | .fifodrain r => "FIFODRAIN ".toList ++ rangeText r
  | .word v => ".word ".toList ++ decimal 9 v

end Sys2Proof.Assembler
end

