-- ==== Sys2Proof/Machine/BusFrame.lean ====
section
/-! DEFINITION. The wire frames the bus adapter makes of SDFR's requests (R57), and the frame of a write,
which SDFR never issues (R58). -/

namespace Sys2Proof.Machine

/-- Controller to sensor, a read of `n` bytes: `(addr << 1) | READ_BIT`, then `n` copies of `DUMMY_BYTE` (R57). -/
def readFrame (addr : BitVec 7) (n : Nat) : List Byte :=
  (addr ++ Config.readBit) :: List.replicate n Config.dummyByte

/-- Sensor to controller: the byte clocked in during the address byte is discarded, the next `n` are
`b[0..n−1]` (R57). -/
def readReply (clockedIn : List Byte) : List Byte := clockedIn.tail

/-- Controller to sensor, a write: `(addr << 1) | WRITE_BIT`, then the value (R58). -/
def writeFrame (addr : BitVec 7) (value : Byte) : List Byte := [addr ++ Config.writeBit, value]

/-- The frame on the wire for the pending request, if there is one (R25, R57). -/
def pendingFrame (s : State) : Option (List Byte) :=
  s.breq.map fun q => readFrame q.addr q.len.toNat

end Sys2Proof.Machine
end

