-- ==== Sys2Proof/Safety.lean ====
section
/-! DEFINITION. What claims call safe: the invariants of R40, the states a run reaches under any behaviour of
the other agents, and which moves keep the other agents' side of the protocols (R25, R66, R218). -/

namespace Sys2Proof.Safety

open Sys2Proof.Machine

/-- A FIFO command is between its accept and its last bus answer. -/
def busWorkStates : List SeqState := [.lockWait, .cntWait, .burstWait]

/-- R40, (a) to (f). -/
abbrev TableInvariant (s : State) : Prop :=
  (s.st = .resp ↔ s.rspq ≠ []) ∧
  (s.breq ≠ none ↔ (s.st = .cntWait ∨ s.st = .burstWait)) ∧
  (s.lock = true ↔ (s.st = .lockWait ∨ s.st = .cntWait ∨ s.st = .burstWait)) ∧
  (s.st = .burstWait →
    s.breq = some ⟨0x11#7, BitVec.ofNat 10 (3 * s.usable.toNat)⟩ ∧ 3 ≤ s.usable.toNat ∧ s.usable.toNat ≤ 255) ∧
  s.rspq.length ≤ 257 ∧
  (seqCode s.st).toNat ≤ 4

/-- What else holds of the registers while a FIFO command is in progress: which command it is (R142), that a
drain's range is valid (R142, R102), which request is pending (R142, R148), that `USABLE` goes with `CNT`
(R146), and that an answer stands on the port only for a pending request (R211). -/
abbrev CommandInvariant (s : State) : Prop :=
  (s.st ∈ busWorkStates → s.opl = 0x3#4 ∨ (s.opl = 0x4#4 ∧ s.rngl ≠ 0#2)) ∧
  (s.st = .cntWait → s.breq = some ⟨0x05#7, 1#10⟩) ∧
  (s.st = .burstWait → s.opl = 0x4#4 ∧ s.usable.toNat = s.cnt.toNat - s.cnt.toNat % 3) ∧
  (s.bresp ≠ none → s.breq ≠ none)

/-- The invariant of the machine. -/
abbrev SdfrInv (s : State) : Prop := TableInvariant s ∧ CommandInvariant s

/-- The states reachable from reset, whatever moves the other agents make and in whatever order: between two
steps the agenda may be replaced by any list of moves. -/
inductive Reachable : State → Prop where
  | reset : Reachable State.reset
  | agents (s : State) (moves : List Event) : Reachable s → Reachable { s with agenda := moves }
  | step (s t : State) : Reachable s → step s = .next t → Reachable t

/-- The move keeps the other agents' side of the protocols: an answer only to a request that is pending and not
yet answered, of a length `bresp_len` can carry (R25, R26), and no withdrawal of a grant while SDFR holds the
granted lock (R66). -/
def conforms (e : Event) (s : State) : Bool :=
  match e with
  | .answer .err => s.breq.isSome && s.bresp.isNone
  | .answer (.ok bytes) => s.breq.isSome && s.bresp.isNone && decide (bytes.length < 1024)
  | .grant level => level || !(s.lock && s.busLockGnt)
  | _ => true

/-- The move is the sequencer's. -/
abbrev SdfrMoves (s : State) : Prop := s.agenda = [] ∨ s.agenda.head? = some .sdfr

/-- The bus is in use only under a granted lock (R66). -/
abbrev BusUseGranted (s : State) : Prop := s.breq ≠ none → s.lock = true ∧ s.busLockGnt = true

end Sys2Proof.Safety
end

