-- ==== Sys2Proof/Certificates/Slice0/Obligations.lean ====
section
/-! DEFINITION. The statements for the provers, from the numbered rules of spec/. The formulas of the rules, in
plain arithmetic and not through the model's own datapath, stand first, under `Sys2Proof.Rule`. -/

namespace Sys2Proof.Rule

open Sys2Proof Sys2Proof.Machine

/-- R100, R101 in plain arithmetic: the signed 20-bit count of three bytes. -/
def axisCount (b0 b1 b2 : Byte) : Int :=
  let u := b0.toNat * 4096 + b1.toNat * 16 + b2.toNat / 16
  if u < 524288 then (u : Int) else (u : Int) - 1048576

/-- R102, R103 in plain arithmetic: the multiplier `2^SHIFT(c)` of a valid range code (1 at 2G, 2 at 4G, 4 at
8G). It is used for valid codes only. -/
def rangeFactor (c : BitVec 2) : Int :=
  if c = 1#2 then 1 else if c = 2#2 then 2 else 4

/-- The scaled value of three bytes at a valid range (R103). -/
def axisFx (c : BitVec 2) (b0 b1 b2 : Byte) : Int := axisCount b0 b1 b2 * rangeFactor c

/-- The three operand bytes as `DATAL` (R80, R141). -/
def dataOf (b0 b1 b2 : Byte) : BitVec 24 := BitVec.ofNat 24 (b0.toNat * 65536 + b1.toNat * 256 + b2.toNat)

/-- R86 in plain arithmetic on the number of the word. -/
def legalWord (w : Word) : Prop :=
  w.toNat / 64 % 4 = 0 ∧
    (w.toNat % 16 = 1
      ∨ (w.toNat % 16 = 2 ∧ w.toNat / 16 % 4 = 0 ∧ w.toNat / 256 % 256 = 0)
      ∨ (w.toNat % 16 = 3 ∧ w.toNat / 16 % 4 = 0 ∧ w.toNat / 256 = 0)
      ∨ (w.toNat % 16 = 4 ∧ w.toNat / 256 = 0))

/-- `s` after it has latched the word `w` (R141: `OPL`, `RNGL`, `DATAL`). -/
def latched (w : Word) (s : State) : State :=
  { s with
    opl := BitVec.ofNat 4 (w.toNat % 16)
    rngl := BitVec.ofNat 2 (w.toNat / 16 % 4)
    datal := BitVec.ofNat 24 (w.toNat / 256) }

/-- `s` after an error entry (R188) with status code `code` and `OP` = `op`: the one word `(code << 4) | op`. -/
def failed (code op : Nat) (s : State) : State :=
  { s with rspq := [BitVec.ofNat 32 (code * 16 + op)], st := .resp, lock := false, breq := none }

/-- The response of FIFOCNT (R144) from `dev_ready` at accept and the answer to its one read. -/
def countResponse (ready : Bool) (a : BusAnswer) : List Word :=
  if ready = false then [0x00000033#32]
  else match a with
    | .ok [c] => [0x00010003#32, BitVec.ofNat 32 c.toNat]
    | _ => [0x00000013#32]

/-- The values of the entries of a burst (R150): entry `i` from bytes `3i`, `3i+1`, `3i+2`. -/
def entryWords (c : BitVec 2) (n : Nat) (bytes : List Byte) : List Word :=
  (List.range n).map fun i =>
    BitVec.ofInt 32 (axisFx c (bytes.getD (3 * i) 0) (bytes.getD (3 * i + 1) 0) (bytes.getD (3 * i + 2) 0))

/-- The response of a FIFODRAIN (R89, R151) whose count is `n` and whose burst is `bytes`. -/
def batchResponse (c : BitVec 2) (n : Nat) (bytes : List Byte) : List Word :=
  BitVec.ofNat 32 ((1 + (n - n % 3)) * 65536 + 4) :: BitVec.ofNat 32 (n * 256 + n / 3) ::
    entryWords c (n - n % 3) bytes

/-- The response of FIFODRAIN (R152) from `dev_ready` at accept, the range code, the answer to the count read
and the answer to the burst, the second used only if the burst is issued. -/
def drainResponse (ready : Bool) (c : BitVec 2) (a b : BusAnswer) : List Word :=
  if ready = false then [0x00000034#32]
  else if c = 0#2 then [0x00000024#32]
  else match a with
    | .ok [n] =>
      if n.toNat < 3 then [0x00010004#32, BitVec.ofNat 32 (n.toNat * 256)]
      else match b with
        | .ok bytes =>
          if bytes.length = 3 * (n.toNat - n.toNat % 3) then batchResponse c n.toNat bytes else [0x00000014#32]
        | .err => [0x00000014#32]
    | _ => [0x00000014#32]

/-- The rows of R140 as pairs (from, to) of different states. -/
def tableEdges : List (SeqState × SeqState) :=
  [(.idle, .resp), (.idle, .lockWait), (.lockWait, .cntWait), (.cntWait, .resp), (.cntWait, .burstWait),
   (.burstWait, .resp), (.resp, .idle)]

/-- The status an accepted word is answered with at once, the first that applies (R187, items 1 to 3). -/
def acceptStatus (w : Word) (ready : Bool) (code : Nat) : Prop :=
  (¬ legalWord w ∧ code = 4) ∨
  (legalWord w ∧ (w.toNat % 16 = 3 ∨ w.toNat % 16 = 4) ∧ ready = false ∧ code = 3) ∨
  (legalWord w ∧ w.toNat % 16 = 4 ∧ ready = true ∧ w.toNat / 16 % 4 = 0 ∧ code = 2) ∨
  (legalWord w ∧ w.toNat % 16 = 1 ∧ w.toNat / 16 % 4 = 0 ∧ code = 2)

end Sys2Proof.Rule

open Sys2Proof Sys2Proof.Machine Sys2Proof.Safety

/-! ### Encoding -/

/-- Decoding an encoded command gives it back, every operand at every value (R80 to R84). -/
def Obligations.DecodeOfEncodeIsTheCommand : Prop :=
  ∀ i : Instr, decode (encode i) = .ok i

/-- A word the decoder reads as `i` is the word of `i`: no two words share a meaning and no bit is dropped. -/
def Obligations.EncodeOfDecodeIsTheWord : Prop :=
  ∀ (w : Word) (i : Instr), decode w = .ok i → encode i = w

/-- R86: the decoder reads a command from exactly the legal words; range code 00 is legal and is refused later,
as INVALID_RANGE. -/
def Obligations.DecoderAcceptsExactlyTheLegalWords : Prop :=
  (∀ w : Word, (∃ i, decode w = .ok i) ↔ Rule.legalWord w) ∧
  (∀ (w : Word) (s : State), Rule.legalWord w → w.toNat / 16 % 4 = 0 → s.st = .idle → s.devReady = true →
    w.toNat % 16 = 1 ∨ w.toNat % 16 = 4 →
    acceptWord w s = .next (Rule.failed 2 (w.toNat % 16) (Rule.latched w s)))

/-- R93: each line of a mnemonic assembles to one word, which disassembles to that line; a legal word
disassembles to a line with its mnemonic, an illegal one only to `.word`; every word is the word of its line. -/
def Obligations.AssemblerAndDisassemblerAgree : Prop :=
  (∀ l : AsmLine, l.wellFormed = true → (∀ v, l ≠ .word v) → ∃ w, assemble l = some w ∧ disassemble w = l) ∧
  (∀ w : Word, Rule.legalWord w → ∃ i, decode w = .ok i ∧ disassemble w = i.toLine) ∧
  (∀ w : Word, ¬ Rule.legalWord w → disassemble w = .word w.toNat) ∧
  (∀ w : Word, assemble (disassemble w) = some w)

/-- The text of a word's line assembles back to the word (R92, with the model's spelling of log entry 21). -/
def Obligations.DisassembledTextAssemblesBack : Prop :=
  ∀ w : Word, Assembler.assembleText (Assembler.lineText (disassemble w)) = some w

/-- A few of the words of R94, written out from R80: they decode to what R94 says they are. -/
def Obligations.SampleWordsDecode : Prop :=
  decode 0x12345611#32 = .ok (.decaxis 1#2 0x12#8 0x34#8 0x56#8) ∧
  decode 0x80000031#32 = .ok (.decaxis 3#2 0x80#8 0x00#8 0x00#8) ∧
  decode 0x073C0002#32 = .ok (.dectemp 0x07#8 0x3C#8) ∧
  decode 0x00000003#32 = .ok .fifocnt ∧
  decode 0x00000024#32 = .ok (.fifodrain 2#2) ∧
  decode 0x00000000#32 = .error .illegalOp ∧
  decode 0x073C0012#32 = .error .rangeNotZero ∧
  decode 0x00000051#32 = .error .reservedBits

/-! ### Datapath -/

/-- R100: the 20-bit value of three bytes; the low nibble of the last is discarded. -/
def Obligations.UnpackerReassemblesTwentyBits : Prop :=
  ∀ b0 b1 b2 : Byte,
    (unpack b0 b1 b2).toNat = b0.toNat * 2 ^ 12 + b1.toNat * 2 ^ 4 + b2.toNat / 2 ^ 4

/-- R101: two's complement over the 20-bit field, and its range. -/
def Obligations.SignExtensionSubtractsTwoToTheTwenty : Prop :=
  ∀ u : BitVec 20,
    sx20 u = (if u.getLsbD 19 then (u.toNat : Int) - 0x100000 else (u.toNat : Int)) ∧
    -524288 ≤ sx20 u ∧ sx20 u ≤ 524287

/-- The scaler is a left shift by `SHIFT(c)` (R103), equals the source's quotient exactly, has the range R103 gives,
and so fits the response word. The exactness is the spec's own inference in R103: "fx/256000 = ... = s20/DIV(c)". -/
def Obligations.ScalerIsExact : Prop :=
  ∀ (u : BitVec 20) (c : BitVec 2) (k d : Nat), shiftOf c = some k → divOf c = some d →
    scale (sx20 u) c = sx20 u * 2 ^ k ∧
    scale (sx20 u) c * (d : Int) = sx20 u * 256000 ∧
    -2097152 ≤ scale (sx20 u) c ∧ scale (sx20 u) c ≤ 2097148 ∧
    (word32 (scale (sx20 u) c)).toInt = scale (sx20 u) c

/-- R105: the 12-bit raw temperature; the high nibble of `hi` is discarded. -/
def Obligations.RawTemperatureMasksTheHighNibble : Prop :=
  ∀ hi lo : Byte, (traw hi lo).toNat = hi.toNat % 16 * 256 + lo.toNat

/-- R106: every ROM entry is the calibration line times 2^16 rounded to nearest with no tie, is the floor form,
fits 25 signed bits, and the two ends are as R106 gives them. That no tie occurs and that the floor form equals the
rounded one are the spec's own inferences in R106. -/
def Obligations.RomEntriesAreTheRoundedLine : Prop :=
  (∀ r : BitVec 12,
    let line : Int := (41565 - 20 * (r.toNat : Int)) * 65536
    2 * (181 * tlutInt r - line) < 181 ∧ -181 < 2 * (181 * tlutInt r - line) ∧
    tlutInt r = ((41565 - 20 * (r.toNat : Int)) * 131072 + 181) / 362 ∧
    -16777216 ≤ tlutInt r ∧ tlutInt r < 16777216 ∧ (tlut r).toInt = tlutInt r) ∧
  tlutInt 0#12 = 15049745 ∧ tlut 0#12 = 0x00E5A411#32 ∧
  tlutInt 4095#12 = -14604390 ∧ tlut 4095#12 = 0xFF21279A#32

/-- The spec's own inference of R108: the ROM is strictly decreasing, by 7241 or more an entry, and each entry is
within half a unit of the last place (2^-17 degrees C) of the line. -/
def Obligations.RomIsStrictlyDecreasing : Prop :=
  (∀ r r' : BitVec 12, r.toNat < r'.toNat → tlutInt r' + 7241 * ((r'.toNat : Int) - r.toNat) ≤ tlutInt r) ∧
  (∀ r : BitVec 12, |181 * tlutInt r - (41565 - 20 * (r.toNat : Int)) * 65536| * 2 ≤ 181)

/-- The spec's own inference of R110: the sign of both results is bit 19 of the reassembled value, at every valid
range. -/
def Obligations.SignOfResultsIsBitNineteen : Prop :=
  ∀ (b0 b1 b2 : Byte) (c : BitVec 2), c ≠ 0#2 →
    let u := unpack b0 b1 b2
    (u.getLsbD 19 = false → 0 ≤ sx20 u ∧ 0 ≤ axisValue c b0 b1 b2) ∧
    (u.getLsbD 19 = true → sx20 u < 0 ∧ axisValue c b0 b1 b2 < 0)

/-- R146: `USABLE` is the largest multiple of 3 not above `CNT`; and, the spec's own inference there, the number of
triples is `floor(CNT/3)`, at most 85. -/
def Obligations.UsableIsTheLargestMultipleOfThree : Prop :=
  ∀ c : BitVec 8,
    (usableOf c).toNat = c.toNat - c.toNat % 3 ∧ (usableOf c).toNat % 3 = 0 ∧
    (∀ m : Nat, m % 3 = 0 → m ≤ c.toNat → m ≤ (usableOf c).toNat) ∧
    (tripleCount (usableOf c)).toNat = c.toNat / 3 ∧ (tripleCount (usableOf c)).toNat ≤ 85

/-! ### The decode commands -/

/-- R104: DECAXIS in `IDLE` at a valid range completes with both results and changes nothing but `OPL`, `RNGL`,
`DATAL`, `RSPQ` and `ST`; at range code 00 it answers INVALID_RANGE; a DECAXIS word with `RSV ≠ 0` is answered
ILLEGAL_CMD. It holds whatever `dev_ready`, the lock grant and the bus ports are. -/
def Obligations.DecaxisAnswersCountAndValue : Prop :=
  ∀ (s : State) (rng : BitVec 2) (b0 b1 b2 : Byte), s.st = .idle →
    (rng ≠ 0#2 →
      exec (.decaxis rng b0 b1 b2) s = .next { s with
        opl := 1#4, rngl := rng, datal := Rule.dataOf b0 b1 b2, st := .resp
        rspq := [0x00020001#32, BitVec.ofInt 32 (Rule.axisCount b0 b1 b2),
          BitVec.ofInt 32 (Rule.axisFx rng b0 b1 b2)] }) ∧
    (rng = 0#2 →
      exec (.decaxis rng b0 b1 b2) s = .next (Rule.failed 2 1
        { s with opl := 1#4, rngl := 0#2, datal := Rule.dataOf b0 b1 b2 })) ∧
    (∀ w : Word, w.toNat % 16 = 1 → w.toNat / 64 % 4 ≠ 0 →
      acceptWord w s = .next (Rule.failed 4 1 (Rule.latched w s)))

/-- R107: DECTEMP in `IDLE` completes with the raw count and the ROM entry, for every byte pair, and changes
nothing but `OPL`, `RNGL`, `DATAL`, `RSPQ` and `ST`; a DECTEMP word with `RNG`, `RSV` or `B2` nonzero is answered
ILLEGAL_CMD. -/
def Obligations.DectempAnswersRawAndRomEntry : Prop :=
  ∀ (s : State) (hi lo : Byte), s.st = .idle →
    exec (.dectemp hi lo) s = .next { s with
      opl := 2#4, rngl := 0#2, datal := Rule.dataOf hi lo 0#8, st := .resp
      rspq := [0x00020002#32, BitVec.ofNat 32 (hi.toNat % 16 * 256 + lo.toNat),
        BitVec.ofInt 32
          (((41565 - 20 * ((hi.toNat % 16 * 256 + lo.toNat : Nat) : Int)) * 131072 + 181) / 362)] } ∧
    (∀ w : Word, w.toNat % 16 = 2 →
      w.toNat / 16 % 4 ≠ 0 ∨ w.toNat / 64 % 4 ≠ 0 ∨ w.toNat / 256 % 256 ≠ 0 →
      acceptWord w s = .next (Rule.failed 4 2 (Rule.latched w s)))

/-- The spec's own inference of R111: every 20-bit signed integer, left-packed with any low nibble, comes back exactly
from DECAXIS at every valid range, and the scaled value over 256000 is the count over the divisor. -/
def Obligations.AxisRoundTripIsExact : Prop :=
  ∀ (s : State) (c : BitVec 2) (v : Int) (nibble d : Nat), s.st = .idle → divOf c = some d →
    -524288 ≤ v → v ≤ 524287 → nibble < 16 →
    let u := (v % 1048576).toNat
    ∃ t, exec (.decaxis c (BitVec.ofNat 8 (u / 4096)) (BitVec.ofNat 8 (u / 16 % 256))
        (BitVec.ofNat 8 (u % 16 * 16 + nibble))) s = .next t ∧
      t.rspq = [0x00020001#32, BitVec.ofInt 32 v, BitVec.ofInt 32 (v * Rule.rangeFactor c)] ∧
      v * Rule.rangeFactor c * d = v * 256000

/-- The spec's own inference of R112: a legal decode command gives identical responses from any two `IDLE` states, and
from a state that keeps the invariant it leaves `CNT`, `USABLE`, `BUF`, the lock, the bus request and every port as
they were. -/
def Obligations.DecodeCommandsArePure : Prop :=
  ∀ (i : Instr) (s s' : State), (∃ rng b0 b1 b2, i = .decaxis rng b0 b1 b2) ∨ (∃ hi lo, i = .dectemp hi lo) →
    s.st = .idle → s'.st = .idle →
    ∃ t t', exec i s = .next t ∧ exec i s' = .next t' ∧ t.rspq = t'.rspq ∧
      (SdfrInv s → t = { s with opl := t.opl, rngl := t.rngl, datal := t.datal, rspq := t.rspq, st := .resp })

/-! ### The FIFO commands -/

/-- R142: the prologue of both FIFO commands: NOT_READY, then INVALID_RANGE, without lock or request; else the
lock is requested; then the `LOCK_WAIT` step, once granted, issues the one-byte read of FIFO_ENTRIES. -/
def Obligations.FifoPrologueChecksThenLocksThenReads : Prop :=
  (∀ s : State, s.st = .idle →
    (s.devReady = false →
      exec .fifocnt s = .next (Rule.failed 3 3 { s with opl := 3#4, rngl := 0#2, datal := 0#24 })) ∧
    (s.devReady = true →
      exec .fifocnt s = .next
        { s with opl := 3#4, rngl := 0#2, datal := 0#24, lock := true, st := .lockWait })) ∧
  (∀ (s : State) (rng : BitVec 2), s.st = .idle →
    (s.devReady = false →
      exec (.fifodrain rng) s = .next (Rule.failed 3 4 { s with opl := 4#4, rngl := rng, datal := 0#24 })) ∧
    (s.devReady = true → rng = 0#2 →
      exec (.fifodrain rng) s = .next (Rule.failed 2 4 { s with opl := 4#4, rngl := 0#2, datal := 0#24 })) ∧
    (s.devReady = true → rng ≠ 0#2 →
      exec (.fifodrain rng) s = .next
        { s with opl := 4#4, rngl := rng, datal := 0#24, lock := true, st := .lockWait })) ∧
  (∀ s : State, s.rst = false → s.st = .lockWait → s.busLockGnt = true →
    sdfrStep s = .next { s with breq := some ⟨0x05#7, 1#10⟩, st := .cntWait })

/-- R143 for a FIFOCNT in progress: a one-byte answer completes it with that byte, unmasked; every other answer
is BUS_ERROR. Nothing else changes. In this model `exec` of the command in progress is its next step (log entry 13)
and the consumed answer leaves the port (log entry 6). -/
def Obligations.FifocntDeliversTheCount : Prop :=
  ∀ (s : State) (a : BusAnswer), s.st = .cntWait → s.opl = 3#4 → s.bresp = some a →
    (∀ c : Byte, a = .ok [c] →
      exec .fifocnt s = .next { s with
        cnt := c, rspq := [0x00010003#32, BitVec.ofNat 32 c.toNat], st := .resp
        lock := false, breq := none, bresp := none }) ∧
    ((∀ c : Byte, a ≠ .ok [c]) →
      exec .fifocnt s = .next { Rule.failed 1 3 s with bresp := none })

/-- R145, R147 for a FIFODRAIN in progress: a count below 3 completes it with an empty batch and no burst; another
count issues the one burst of `3·USABLE` bytes with the lock still held (R148); every answer that is not one byte is
BUS_ERROR (R143). Nothing else changes. In this model `exec` of the command in progress is its next step (log entry
13) and the consumed answer leaves the port (log entry 6). -/
def Obligations.FifodrainCountStepEndsOrBursts : Prop :=
  ∀ (s : State) (rng : BitVec 2) (a : BusAnswer), s.st = .cntWait → s.opl = 4#4 → s.rngl = rng →
    s.bresp = some a →
    (∀ c : Byte, a = .ok [c] → c.toNat < 3 →
      exec (.fifodrain rng) s = .next { s with
        cnt := c, usable := 0#8, rspq := [0x00010004#32, BitVec.ofNat 32 (c.toNat * 256)], st := .resp
        lock := false, breq := none, bresp := none }) ∧
    (∀ c : Byte, a = .ok [c] → 3 ≤ c.toNat →
      exec (.fifodrain rng) s = .next { s with
        cnt := c, usable := BitVec.ofNat 8 (c.toNat - c.toNat % 3), st := .burstWait, bresp := none
        breq := some ⟨0x11#7, BitVec.ofNat 10 (3 * (c.toNat - c.toNat % 3))⟩ }) ∧
    ((∀ c : Byte, a ≠ .ok [c]) →
      exec (.fifodrain rng) s = .next { Rule.failed 1 4 s with bresp := none })

/-- R149 to R151 for a FIFODRAIN in progress: the whole burst completes it with every value, in order, at the
range latched at accept; an error or an answer of another length is BUS_ERROR and no value. `BUF` takes the
burst in its first bytes, and no other register changes. In this model `exec` of the command in progress is its next
step (log entry 13) and the consumed answer leaves the port (log entry 6). -/
def Obligations.FifodrainDeliversTheWholeBatchOrNone : Prop :=
  ∀ (s : State) (rng : BitVec 2) (a : BusAnswer), s.st = .burstWait → s.opl = 4#4 → s.rngl = rng →
    rng ≠ 0#2 → s.bresp = some a →
    (∀ bytes : List Byte, a = .ok bytes → bytes.length = 3 * s.usable.toNat →
      ∃ t, exec (.fifodrain rng) s = .next t ∧
        t = { s with rspq := t.rspq, buf := t.buf, st := .resp, lock := false, breq := none, bresp := none } ∧
        (∀ k : Nat, k < bytes.length → t.buf[k]? = bytes[k]?) ∧
        t.rspq = BitVec.ofNat 32 ((1 + s.usable.toNat) * 65536 + 4) ::
          BitVec.ofNat 32 (s.cnt.toNat * 256 + s.usable.toNat / 3) ::
          Rule.entryWords rng s.usable.toNat bytes) ∧
    ((∀ bytes : List Byte, a = .ok bytes → bytes.length ≠ 3 * s.usable.toNat) →
      exec (.fifodrain rng) s = .next { Rule.failed 1 4 s with bresp := none })

/-- No byte of `BUF` past the burst changes, which is the model's reading of R149 (log entry 19). It is said of `exec`
in `BURST_WAIT` whatever `OPL` and `RNGL` are, since `exec` of a busy block is the step of the command in progress
(the model's choice, log entry 13). -/
def Obligations.BurstKeepsTheRestOfTheBuffer : Prop :=
  ∀ (s : State) (rng : BitVec 2) (bytes : List Byte), s.st = .burstWait → s.bresp = some (.ok bytes) →
    bytes.length = 3 * s.usable.toNat →
    ∃ t, exec (.fifodrain rng) s = .next t ∧ ∀ k : Nat, bytes.length ≤ k → t.buf[k]? = s.buf[k]?

/-- R144 as one sequence: from `IDLE`, with the host offering FIFOCNT, the controller granting and the adapter
answering `a`, the response is the one R144 gives, for every answer and either value of `dev_ready`. That no answer is
left on the port is the model's reading (log entry 6). -/
def Obligations.FifocntRunsToItsResponse : Prop :=
  ∀ (s : State) (a : BusAnswer), SdfrInv s → s.st = .idle → s.rst = false → s.rspReady = false →
    ∃ t, Host.Core.run Sys2Proof.core 7 { s with
        agenda := [.offer 0x00000003#32, .sdfr, .withdraw, .grant true, .sdfr, .answer a, .sdfr] } = .next t ∧
      t.st = .resp ∧ t.rspq = Rule.countResponse s.devReady a ∧
      t.lock = false ∧ t.breq = none ∧ t.bresp = none ∧ t.usable = s.usable ∧ t.buf = s.buf ∧
      (∀ c : Byte, s.devReady = true → a = .ok [c] → t.cnt = c)

/-- R152 as one sequence: from `IDLE`, with the host offering FIFODRAIN, the controller granting and the adapter
answering `a` and then `b`, the response is the one R152 gives, for every range code, every two answers and
either value of `dev_ready`. That no answer is left on the port is the model's reading (log entry 6). -/
def Obligations.FifodrainRunsToItsResponse : Prop :=
  ∀ (s : State) (rng : BitVec 2) (a b : BusAnswer), SdfrInv s → s.st = .idle → s.rst = false → s.rspReady = false →
    ∃ t, Host.Core.run Sys2Proof.core 9 { s with
        agenda := [.offer (encode (.fifodrain rng)), .sdfr, .withdraw, .grant true, .sdfr, .answer a, .sdfr,
          .answer b, .sdfr] } = .next t ∧
      t.st = .resp ∧ t.rspq = Rule.drainResponse s.devReady rng a b ∧
      t.lock = false ∧ t.breq = none ∧ t.bresp = none

/-! ### Accepting, answering, waiting -/

/-- A step with a command word at the port is `exec` of the command it decodes to, in every state of the
sequencer (R141 in `IDLE`, R22 elsewhere; log entry 13). -/
def Obligations.StepRunsTheDecodedCommand : Prop :=
  ∀ (s : State) (i : Instr), s.agenda = [] → s.rst = false → s.cmdValid = true → decode s.cmdWord = .ok i →
    step s = exec i s

/-- The host's word at the port is what the very next step accepts (log entry 16). -/
def Obligations.FetchWordIsRunNext : Prop :=
  ∀ (s : State) (w : Nat) (i : Instr), decodeTableWord 32 w = some i →
    step (s.withFetchWord 32 w) = exec i (s.withFetchWord 32 w)

/-- The accept step latches every word, legal or not, and ends in `RESP` or `LOCK_WAIT`; it never depends on
the lock grant or on the bus answer port (R141). -/
def Obligations.AcceptLatchesEveryWord : Prop :=
  ∀ s : State, s.agenda = [] → s.rst = false → s.st = .idle → s.cmdValid = true →
    ∃ t, step s = .next t ∧
      t.opl = BitVec.ofNat 4 (s.cmdWord.toNat % 16) ∧
      t.rngl = BitVec.ofNat 2 (s.cmdWord.toNat / 16 % 4) ∧
      t.datal = BitVec.ofNat 24 (s.cmdWord.toNat / 256) ∧
      (t.st = .resp ∨ t.st = .lockWait) ∧
      ∀ (g : Bool) (a : Option BusAnswer),
        step { s with busLockGnt := g, bresp := a } = .next { t with busLockGnt := g, bresp := a }

/-- R87: an illegal word is answered ILLEGAL_CMD with its own `OP`, whatever `dev_ready`, the range, the lock or
the bus are, and nothing else happens. -/
def Obligations.IllegalWordsAreAnsweredAndDoNothing : Prop :=
  ∀ s : State, s.agenda = [] → s.rst = false → s.st = .idle → s.cmdValid = true → ¬ Rule.legalWord s.cmdWord →
    step s = .next (Rule.failed 4 (s.cmdWord.toNat % 16) (Rule.latched s.cmdWord s))

/-- R187: the first error that applies is the one reported, in the order ILLEGAL_CMD, NOT_READY, INVALID_RANGE;
only a command none of them applies to goes on, and a FIFO command then asks for the lock; a failed count read
issues no burst. -/
def Obligations.FirstApplicableErrorIsReported : Prop :=
  (∀ s : State, s.agenda = [] → s.rst = false → s.st = .idle → s.cmdValid = true →
    (∀ code, Rule.acceptStatus s.cmdWord s.devReady code →
      step s = .next (Rule.failed code (s.cmdWord.toNat % 16) (Rule.latched s.cmdWord s))) ∧
    ((∀ code, ¬ Rule.acceptStatus s.cmdWord s.devReady code) →
      ∃ t, step s = .next t ∧
        ((s.cmdWord.toNat % 16 = 3 ∨ s.cmdWord.toNat % 16 = 4) → t.st = .lockWait ∧ t.lock = true) ∧
        ((s.cmdWord.toNat % 16 = 1 ∨ s.cmdWord.toNat % 16 = 2) →
          t.st = .resp ∧ ∃ h p, t.rspq = h :: p ∧ headerStatus h = 0#3))) ∧
  (∀ s : State, s.agenda = [] → s.rst = false → s.st = .cntWait → s.bresp = some .err →
    ∃ t, step s = .next t ∧ t.breq = none ∧ t.st = .resp ∧ t.rspq.map headerStatus = [1#3]) ∧
  (∀ s : State, s.agenda = [] → s.rst = false → s.st = .burstWait → s.bresp = some .err →
    ∃ t, step s = .next t ∧ t.breq = none ∧ t.st = .resp ∧ t.rspq.map headerStatus = [1#3])

/-- The effects of an error (R188): one header word with no payload and the command's own `OP`, `RESP`, the lock
and the request cleared (in this model always, log entry 18), and no change to `CNT`, `USABLE`, `BUF` or a port other
than the answer port, which the consumption empties (log entry 6). -/
def Obligations.ErrorsChangeNothingElse : Prop :=
  ∀ (s t : State) (h : Word) (p : List Word), step s = .next t → s.st ≠ .resp → t.st = .resp → t.rspq = h :: p →
    headerStatus h ≠ 0#3 →
    p = [] ∧ headerOp h = t.opl ∧ headerPlen h = 0#16 ∧
      t = { s with
        agenda := s.agenda.tail, opl := t.opl, rngl := t.rngl, datal := t.datal, rspq := [h], st := .resp
        lock := false, breq := none, bresp := t.bresp }

/-- Every response the block puts in its queue is well formed (R89, R90, R155, R185): the header's `OP` is the
command's, bits 15:7 are 0, the status is 0 to 4, `PLEN` is the number of payload words, at most 256, and a
response with an error status has no payload. -/
def Obligations.ResponsesAreWellFormed : Prop :=
  ∀ s t : State, step s = .next t → s.st ≠ .resp → t.st = .resp →
    ∃ h p, t.rspq = h :: p ∧ headerOp h = t.opl ∧ h.extractLsb' 7 9 = 0#9 ∧ (headerStatus h).toNat ≤ 4 ∧
      (headerPlen h).toNat = p.length ∧ p.length ≤ 256 ∧ (headerStatus h ≠ 0#3 → p = [])

/-- R158: with `rsp_ready`, the head of the queue is the word offered and is removed; the block returns to
`IDLE` with the last one. -/
def Obligations.ResponseStepTakesTheHead : Prop :=
  ∀ (s : State) (w : Word) (rest : List Word), s.agenda = [] → s.rst = false → s.st = .resp →
    s.rspReady = true → s.rspq = w :: rest →
    rspWord s = some w ∧ (rspLast s = true ↔ rest = []) ∧
    step s = .next { s with rspq := rest, st := if rest = [] then .idle else .resp }

/-- A response is delivered word by word in order, and one step per word later the block is in `IDLE` with
nothing carried over (R24, R158, R190). -/
def Obligations.ResponseIsDeliveredInOrder : Prop :=
  ∀ s : State, s.agenda = [] → s.rst = false → s.st = .resp → s.rspReady = true → s.rspq ≠ [] →
    (∀ k, k < s.rspq.length →
      Host.Core.run Sys2Proof.core k s = .next { s with rspq := s.rspq.drop k }) ∧
    Host.Core.run Sys2Proof.core s.rspq.length s = .next { s with rspq := [], st := .idle }

/-- In the situations R159 lists no step of the block is enabled, which in this model is a step that changes nothing
(log entry 5). -/
def Obligations.WaitsChangeNothing : Prop :=
  ∀ s : State, s.agenda = [] → s.rst = false →
    (s.st = .idle ∧ s.cmdValid = false) ∨ (s.st = .lockWait ∧ s.busLockGnt = false) ∨
      ((s.st = .cntWait ∨ s.st = .burstWait) ∧ s.bresp = none) ∨ (s.st = .resp ∧ s.rspReady = false) →
    step s = .next s

/-! ### Reset -/

/-- R210: with `rst` asserted the block's step is the reset step, whatever the state. In this model the other agents'
signals stay, but no answer to a withdrawn request stays on the port (log entry 6). -/
def Obligations.ResetAbandonsEverything : Prop :=
  ∀ s : State, s.agenda = [] → s.rst = true →
    ∃ t, step s = .next t ∧ t.st = .idle ∧ t.rspq = [] ∧ t.lock = false ∧ t.breq = none ∧ t.bresp = none ∧
      cmdReady t = true ∧ rspValid t = false ∧ busLockReq t = false ∧ breqValid t = false ∧
      t.cmdValid = s.cmdValid ∧ t.cmdWord = s.cmdWord ∧ t.rspReady = s.rspReady ∧ t.devReady = s.devReady ∧
      t.busLockGnt = s.busLockGnt ∧ t.rst = s.rst

/-- The state after reset has the values R45 gives it and meets the invariant of the machine (R40, and for the answer
port log entries 3 and 6). -/
def Obligations.ResetStateKeepsTheInvariant : Prop :=
  State.reset.st = .idle ∧ State.reset.rspq = [] ∧ State.reset.lock = false ∧ State.reset.breq = none ∧
    SdfrInv State.reset

/-! ### Whole-machine statements -/

/-- Every step of every agent keeps the invariant (R40), from every state that meets it. Its clause that an answer
stands on the port only for a pending request rests on the model's answer port (log entry 6). -/
def Obligations.EveryStepKeepsTheInvariant : Prop :=
  ∀ s t : State, SdfrInv s → step s = .next t → SdfrInv t

/-- The spec's own inference of R40: (a) to (f) hold in every state reachable from reset, whatever moves the host, the
bus adapter, the device controller and reset make. It follows from the step lemma above. -/
def Obligations.ReachableStatesMeetTheTableInvariant : Prop :=
  ∀ s : State, Reachable s → TableInvariant s

/-- No state stops the machine: every step answers a next state. No trap exists (R189). In the waits R159 says that the
block has no enabled step, and that the model's step then answers the same state is its own choice (log entry 5). -/
def Obligations.NothingStopsTheMachine : Prop :=
  ∀ s : State, ∃ t, step s = .next t

/-- `ST` changes only along the rows of R140, in a step of the block, or to `IDLE` by reset. -/
def Obligations.SequencerFollowsTheTable : Prop :=
  ∀ s t : State, step s = .next t → t.st ≠ s.st →
    SdfrMoves s ∧ ((s.rst = true ∧ t.st = .idle) ∨ (s.rst = false ∧ (s.st, t.st) ∈ Rule.tableEdges))

/-- The moves of the host, the bus adapter, the device controller and reset change their own signals and nothing
else; an answer that arrives while no request is pending changes nothing (R20, R211). That an answer to a pending
request stands on the port until it is consumed, in place of one already standing there, is the model's reading (log
entry 6). -/
def Obligations.OtherAgentsChangeOnlyTheirSignals : Prop :=
  ∀ (s : State) (e : Event) (rest : List Event), s.agenda = e :: rest →
    (∀ w, e = .offer w → step s = .next { s with agenda := rest, cmdValid := true, cmdWord := w }) ∧
    (e = .withdraw → step s = .next { s with agenda := rest, cmdValid := false }) ∧
    (∀ b, e = .hostReady b → step s = .next { s with agenda := rest, rspReady := b }) ∧
    (∀ b, e = .controllerReady b → step s = .next { s with agenda := rest, devReady := b }) ∧
    (∀ b, e = .grant b → step s = .next { s with agenda := rest, busLockGnt := b }) ∧
    (∀ b, e = .reset b → step s = .next { s with agenda := rest, rst := b }) ∧
    (∀ a, e = .answer a → s.breq ≠ none → step s = .next { s with agenda := rest, bresp := some a }) ∧
    (∀ a, e = .answer a → s.breq = none → step s = .next { s with agenda := rest })

/-- The spec's own inference of R59: the only requests ever issued are the one-byte read of FIFO_ENTRIES and the
FIFO_DATA burst of `3·u` bytes with `u` in 3, 6, ..., 255, all reads; the decode commands issue none and ask for no
lock. -/
def Obligations.OnlyTwoKindsOfTransaction : Prop :=
  (∀ (s t : State) (q : BusRequest), step s = .next t → t.breq = some q → s.breq ≠ some q →
    breqRw t = 1#1 ∧
    ((q.addr = 0x05#7 ∧ q.len = 1#10) ∨
      (q.addr = 0x11#7 ∧ ∃ u : Nat, q.len.toNat = 3 * u ∧ u % 3 = 0 ∧ 3 ≤ u ∧ u ≤ 255))) ∧
  (∀ (i : Instr) (s : State), (∃ rng b0 b1 b2, i = .decaxis rng b0 b1 b2) ∨ (∃ hi lo, i = .dectemp hi lo) →
    s.st = .idle → ∃ t, exec i s = .next t ∧ (t.breq = none ∨ t.breq = s.breq) ∧
      (t.lock = true → s.lock = true) ∧ t.st = .resp)

/-- R157: the lock is released in exactly the step that consumes a command's last bus answer and in reset, and
is never held in `RESP` or `IDLE`. -/
def Obligations.LockIsReleasedExactlyAtTheEnd : Prop :=
  ∀ s t : State, SdfrInv s → step s = .next t →
    ((s.lock = true ∧ t.lock = false) ↔
      (s.lock = true ∧ SdfrMoves s ∧
        (s.rst = true ∨ (t.st = .resp ∧ (s.st = .cntWait ∨ s.st = .burstWait))))) ∧
    ((t.st = .resp ∨ t.st = .idle) → t.lock = false)

/-- As long as the other agents keep their side of the lock protocol, a request is pending only under a granted
lock, from the count read through the burst (R66, R148). -/
def Obligations.BusIsUsedOnlyUnderAGrantedLock : Prop :=
  ∀ s t : State, SdfrInv s → BusUseGranted s →
    (∀ e rest, s.agenda = e :: rest → conforms e { s with agenda := rest } = true) →
    step s = .next t → BusUseGranted t

/-- R156: outside `IDLE` the block's step does not depend on `dev_ready`; in `IDLE` a FIFO command is answered
NOT_READY exactly when `dev_ready` is 0 then, and is otherwise let through (FIFODRAIN with a valid range). -/
def Obligations.ReadinessIsSampledOnlyAtAccept : Prop :=
  (∀ (s : State) (b : Bool), s.st ≠ .idle →
    ∃ t, sdfrStep s = .next t ∧ sdfrStep { s with devReady := b } = .next { t with devReady := b }) ∧
  (∀ s : State, s.st = .idle →
    ∃ t, exec .fifocnt s = .next t ∧ (t.st = .lockWait ↔ s.devReady = true) ∧
      (t.rspq = [0x00000033#32] ∧ t.st = .resp ↔ s.devReady = false)) ∧
  (∀ (s : State) (rng : BitVec 2), s.st = .idle →
    ∃ t, exec (.fifodrain rng) s = .next t ∧ (t.st = .lockWait ↔ s.devReady = true ∧ rng ≠ 0#2) ∧
      (t.rspq = [0x00000034#32] ∧ t.st = .resp ↔ s.devReady = false))

/-- While a command is in progress the command port is not read: nothing is accepted and no word is latched
(R22). -/
def Obligations.BusyBlockIgnoresTheCommandPort : Prop :=
  ∀ (s : State) (v : Bool) (w : Word), s.st ≠ .idle →
    ∃ t, sdfrStep s = .next t ∧
      sdfrStep { s with cmdValid := v, cmdWord := w } = .next { t with cmdValid := v, cmdWord := w }

/-- The latched command changes only in an accept step, or by reset (R32). -/
def Obligations.LatchedCommandChangesOnlyAtAccept : Prop :=
  ∀ s t : State, step s = .next t → t.opl ≠ s.opl ∨ t.rngl ≠ s.rngl ∨ t.datal ≠ s.datal →
    SdfrMoves s ∧ (s.rst = true ∨ (s.st = .idle ∧ s.cmdValid = true))

/-- `CNT` changes only in `CNT_WAIT`, to the byte of a one-byte answer; `USABLE` only there, for a command whose `OPL`
is not FIFOCNT's, which the model takes as FIFODRAIN (R143's `else`, log entry 14); `BUF` only in `BURST_WAIT`, on an
answer of the right length; or by reset (R33, R34, R35). -/
def Obligations.CountAndBufferChangeOnlyOnTheirAnswers : Prop :=
  ∀ s t : State, step s = .next t →
    (t.cnt ≠ s.cnt → SdfrMoves s ∧
      (s.rst = true ∨ (s.st = .cntWait ∧ s.bresp = some (.ok [t.cnt])))) ∧
    (t.usable ≠ s.usable → SdfrMoves s ∧
      (s.rst = true ∨ (s.st = .cntWait ∧ s.opl ≠ 3#4 ∧ s.bresp = some (.ok [t.cnt]) ∧
        t.usable.toNat = t.cnt.toNat - t.cnt.toNat % 3))) ∧
    (t.buf ≠ s.buf → SdfrMoves s ∧
      (s.rst = true ∨ (s.st = .burstWait ∧
        ∃ bytes, s.bresp = some (.ok bytes) ∧ bytes.length = 3 * s.usable.toNat)))

/-- What the ports say in a state that keeps the invariant (R25, R39): a response word is defined exactly when it
is offered, and a pending request reads 1 to 765 bytes of FIFO_ENTRIES or FIFO_DATA. -/
def Obligations.OutputsAreDefinedWhenValid : Prop :=
  ∀ s : State, SdfrInv s →
    (rspValid s = true ↔ ∃ w, rspWord s = some w) ∧
    (breqValid s = true →
      ∃ n, breqLen s = some n ∧ 1 ≤ n.toNat ∧ n.toNat ≤ 765 ∧
        (breqAddr s = some 0x05#7 ∨ breqAddr s = some 0x11#7)) ∧
    (cmdReady s = true → rspValid s = false ∧ busLockReq s = false ∧ breqValid s = false)

/-- R57: the frame of a read (a property of the bus adapter, log entry 22) is `2·addr + 1` and then the filler bytes,
what comes back is read from the second byte on, and the first byte on the wire is 0x0B for the count read and 0x23
for the burst. -/
def Obligations.ReadFramesAreAddressThenFiller : Prop :=
  (∀ (addr : BitVec 7) (n : Nat),
    readFrame addr n = BitVec.ofNat 8 (2 * addr.toNat + 1) :: List.replicate n 0xAA#8) ∧
  (∀ (first : Byte) (bytes : List Byte), readReply (first :: bytes) = bytes) ∧
  (∀ s : State, SdfrInv s →
    (s.st = .cntWait → (pendingFrame s).map (·.take 1) = some [0x0B#8]) ∧
    (s.st = .burstWait → (pendingFrame s).map (·.take 1) = some [0x23#8]))

/-- The header word in plain arithmetic (R89): `(PLEN << 16) | (STATUS << 4) | OP`. -/
def Obligations.HeaderWordIsPackedAsStated : Prop :=
  ∀ (n : Nat) (k : Status) (op : BitVec 4), n < 65536 →
    (header n k op).toNat = n * 2 ^ 16 + (statusCode k).toNat * 2 ^ 4 + op.toNat
end

