-- ==== Sys2Proof/Laws/Assembler.lean ====
section
/-! SUPPORT. The assembler's text (R92), part by part: the spelling of each line, and digits of a longer numeral. -/

namespace Sys2Proof.Assembler

theorem lineText_decaxis (r : RangeName) (b0 b1 b2 : Nat) :
    lineText (.decaxis r b0 b1 b2) = "DECAXIS ".toList ++ rangeText r ++ ", ".toList ++ decimal 9 b0 ++ ", ".toList
      ++ decimal 9 b1 ++ ", ".toList ++ decimal 9 b2 := rfl

theorem lineText_dectemp (hi lo : Nat) :
    lineText (.dectemp hi lo) = "DECTEMP ".toList ++ decimal 9 hi ++ ", ".toList ++ decimal 9 lo := rfl

theorem lineText_fifocnt : lineText .fifocnt = "FIFOCNT".toList := rfl

theorem lineText_fifodrain (r : RangeName) : lineText (.fifodrain r) = "FIFODRAIN ".toList ++ rangeText r := rfl

theorem lineText_word (v : Nat) : lineText (.word v) = ".word ".toList ++ decimal 9 v := rfl

/-- The value of a numeral goes on from the value of its first part. -/
theorem digits_append (base : Nat) (xs ys : List Char) :
    ∀ acc, digits base acc (xs ++ ys) = (digits base acc xs).bind fun a => digits base a ys := by
  induction xs with
  | nil => intro acc; rfl
  | cons c cs ih =>
    intro acc
    simp only [List.cons_append, digits]
    cases digit base c <;> simp [ih]

/-- Reading a range name is the inverse of spelling it. -/
theorem rangeName_rangeText (r : RangeName) : rangeName (rangeText r) = some r := by
  cases r <;> decide

end Sys2Proof.Assembler
end

