-- ==== Sys2Proof/Laws/Fields.lean ====
section
/-! SUPPORT. Bit fields as arithmetic: concatenation is addition at a power of two and a field is a quotient and
a remainder, so that facts about encodings, headers and the datapath become facts of linear arithmetic. -/

namespace Sys2Proof

theorem toNat_append_eq_add {m n : Nat} (x : BitVec m) (y : BitVec n) :
    (x ++ y).toNat = x.toNat * 2 ^ n + y.toNat := by
  rw [BitVec.toNat_append, ← Nat.shiftLeft_add_eq_or_of_lt y.isLt, Nat.shiftLeft_eq]

theorem toNat_field {n : Nat} (w : BitVec n) (start len : Nat) :
    (w.extractLsb' start len).toNat = w.toNat / 2 ^ start % 2 ^ len := by
  rw [BitVec.extractLsb'_toNat, Nat.shiftRight_eq_div_pow]

/-- The number of a command's word: its fields at their places (R80). -/
theorem encode_toNat (i : Instr) :
    (encode i).toNat = i.data.toNat * 256 + i.rangeCode.toNat * 16 + i.opCode.toNat := by
  unfold encode
  simp only [toNat_append_eq_add, BitVec.toNat_ofNat]
  omega

theorem opField_toNat (w : Word) : (opField w).toNat = w.toNat % 16 := by
  rw [opField, toNat_field]
  omega

theorem rngField_toNat (w : Word) : (rngField w).toNat = w.toNat / 16 % 4 := toNat_field w 4 2

theorem rsvField_toNat (w : Word) : (rsvField w).toNat = w.toNat / 64 % 4 := toNat_field w 6 2

theorem b2Field_toNat (w : Word) : (b2Field w).toNat = w.toNat / 256 % 256 := toNat_field w 8 8

theorem b1Field_toNat (w : Word) : (b1Field w).toNat = w.toNat / 65536 % 256 := toNat_field w 16 8

theorem b0Field_toNat (w : Word) : (b0Field w).toNat = w.toNat / 16777216 % 256 := toNat_field w 24 8

theorem dataField_toNat (w : Word) : (dataField w).toNat = w.toNat / 256 := by
  have h := toNat_field w 8 24
  have := w.isLt
  simp only [dataField, h]
  omega

/-- `DATA = {B0, B1, B2}` (R80). -/
theorem data_toNat (b0 b1 b2 : Byte) :
    (b0 ++ b1 ++ b2 : BitVec 24).toNat = b0.toNat * 65536 + b1.toNat * 256 + b2.toNat := by
  simp only [toNat_append_eq_add]
  omega

end Sys2Proof

namespace Sys2Proof.Machine

/-- The number of a header word (R89), whatever its parts. -/
theorem header_toNat_mod (n : Nat) (k : Status) (op : BitVec 4) :
    (header n k op).toNat = n % 65536 * 65536 + (statusCode k).toNat * 16 + op.toNat := by
  unfold header
  simp only [toNat_append_eq_add, BitVec.toNat_ofNat]
  omega

@[simp] theorem headerStatus_header (n : Nat) (k : Status) (op : BitVec 4) :
    headerStatus (header n k op) = statusCode k := by
  apply BitVec.eq_of_toNat_eq
  have := op.isLt
  have := (statusCode k).isLt
  simp only [headerStatus, toNat_field, header_toNat_mod]
  omega

@[simp] theorem headerOp_header (n : Nat) (k : Status) (op : BitVec 4) :
    headerOp (header n k op) = op := by
  apply BitVec.eq_of_toNat_eq
  have := op.isLt
  have := (statusCode k).isLt
  simp only [headerOp, toNat_field, header_toNat_mod]
  omega

@[simp] theorem headerPlen_header (n : Nat) (k : Status) (op : BitVec 4) :
    headerPlen (header n k op) = BitVec.ofNat 16 n := by
  apply BitVec.eq_of_toNat_eq
  have := op.isLt
  have := (statusCode k).isLt
  simp only [headerPlen, toNat_field, header_toNat_mod, BitVec.toNat_ofNat]
  omega

/-! The headers of the successful responses of fixed length (R91). -/

theorem header_ok_decaxis : header 2 .ok 1#4 = 0x00020001#32 := by decide

theorem header_ok_dectemp : header 2 .ok 2#4 = 0x00020002#32 := by decide

theorem header_ok_fifocnt : header 1 .ok 3#4 = 0x00010003#32 := by decide

theorem header_ok_drain_empty : header 1 .ok 4#4 = 0x00010004#32 := by decide

end Sys2Proof.Machine
end

