-- ==== Sys2Proof/Laws/State.lean ====
section
/-! SUPPORT. One lemma per field per named update of the state, so that no proof unfolds a record update. -/

namespace Sys2Proof.Machine

variable (s : State)

@[simp] theorem latch_st (op : BitVec 4) (rng : BitVec 2) (data : BitVec 24) : (latch op rng data s).st = s.st := rfl
@[simp] theorem latch_opl (op : BitVec 4) (rng : BitVec 2) (data : BitVec 24) : (latch op rng data s).opl = op := rfl
@[simp] theorem latch_rngl (op : BitVec 4) (rng : BitVec 2) (data : BitVec 24) : (latch op rng data s).rngl = rng := rfl
@[simp] theorem latch_datal (op : BitVec 4) (rng : BitVec 2) (data : BitVec 24) : (latch op rng data s).datal = data := rfl
@[simp] theorem latch_cnt (op : BitVec 4) (rng : BitVec 2) (data : BitVec 24) : (latch op rng data s).cnt = s.cnt := rfl
@[simp] theorem latch_usable (op : BitVec 4) (rng : BitVec 2) (data : BitVec 24) : (latch op rng data s).usable = s.usable := rfl
@[simp] theorem latch_buf (op : BitVec 4) (rng : BitVec 2) (data : BitVec 24) : (latch op rng data s).buf = s.buf := rfl
@[simp] theorem latch_rspq (op : BitVec 4) (rng : BitVec 2) (data : BitVec 24) : (latch op rng data s).rspq = s.rspq := rfl
@[simp] theorem latch_lock (op : BitVec 4) (rng : BitVec 2) (data : BitVec 24) : (latch op rng data s).lock = s.lock := rfl
@[simp] theorem latch_breq (op : BitVec 4) (rng : BitVec 2) (data : BitVec 24) : (latch op rng data s).breq = s.breq := rfl
@[simp] theorem latch_cmdValid (op : BitVec 4) (rng : BitVec 2) (data : BitVec 24) : (latch op rng data s).cmdValid = s.cmdValid := rfl
@[simp] theorem latch_cmdWord (op : BitVec 4) (rng : BitVec 2) (data : BitVec 24) : (latch op rng data s).cmdWord = s.cmdWord := rfl
@[simp] theorem latch_rspReady (op : BitVec 4) (rng : BitVec 2) (data : BitVec 24) : (latch op rng data s).rspReady = s.rspReady := rfl
@[simp] theorem latch_bresp (op : BitVec 4) (rng : BitVec 2) (data : BitVec 24) : (latch op rng data s).bresp = s.bresp := rfl
@[simp] theorem latch_devReady (op : BitVec 4) (rng : BitVec 2) (data : BitVec 24) : (latch op rng data s).devReady = s.devReady := rfl
@[simp] theorem latch_busLockGnt (op : BitVec 4) (rng : BitVec 2) (data : BitVec 24) : (latch op rng data s).busLockGnt = s.busLockGnt := rfl
@[simp] theorem latch_rst (op : BitVec 4) (rng : BitVec 2) (data : BitVec 24) : (latch op rng data s).rst = s.rst := rfl
@[simp] theorem latch_agenda (op : BitVec 4) (rng : BitVec 2) (data : BitVec 24) : (latch op rng data s).agenda = s.agenda := rfl
@[simp] theorem latch_draws (op : BitVec 4) (rng : BitVec 2) (data : BitVec 24) : (latch op rng data s).draws = s.draws := rfl

@[simp] theorem emit_st (k : Status) (p : List Word) : (emit k p s).st = .resp := rfl
@[simp] theorem emit_opl (k : Status) (p : List Word) : (emit k p s).opl = s.opl := rfl
@[simp] theorem emit_rngl (k : Status) (p : List Word) : (emit k p s).rngl = s.rngl := rfl
@[simp] theorem emit_datal (k : Status) (p : List Word) : (emit k p s).datal = s.datal := rfl
@[simp] theorem emit_cnt (k : Status) (p : List Word) : (emit k p s).cnt = s.cnt := rfl
@[simp] theorem emit_usable (k : Status) (p : List Word) : (emit k p s).usable = s.usable := rfl
@[simp] theorem emit_buf (k : Status) (p : List Word) : (emit k p s).buf = s.buf := rfl
@[simp] theorem emit_rspq (k : Status) (p : List Word) : (emit k p s).rspq = header p.length k s.opl :: p := rfl
@[simp] theorem emit_lock (k : Status) (p : List Word) : (emit k p s).lock = s.lock := rfl
@[simp] theorem emit_breq (k : Status) (p : List Word) : (emit k p s).breq = s.breq := rfl
@[simp] theorem emit_cmdValid (k : Status) (p : List Word) : (emit k p s).cmdValid = s.cmdValid := rfl
@[simp] theorem emit_cmdWord (k : Status) (p : List Word) : (emit k p s).cmdWord = s.cmdWord := rfl
@[simp] theorem emit_rspReady (k : Status) (p : List Word) : (emit k p s).rspReady = s.rspReady := rfl
@[simp] theorem emit_bresp (k : Status) (p : List Word) : (emit k p s).bresp = s.bresp := rfl
@[simp] theorem emit_devReady (k : Status) (p : List Word) : (emit k p s).devReady = s.devReady := rfl
@[simp] theorem emit_busLockGnt (k : Status) (p : List Word) : (emit k p s).busLockGnt = s.busLockGnt := rfl
@[simp] theorem emit_rst (k : Status) (p : List Word) : (emit k p s).rst = s.rst := rfl
@[simp] theorem emit_agenda (k : Status) (p : List Word) : (emit k p s).agenda = s.agenda := rfl
@[simp] theorem emit_draws (k : Status) (p : List Word) : (emit k p s).draws = s.draws := rfl

@[simp] theorem requestLock_st : (requestLock s).st = .lockWait := rfl
@[simp] theorem requestLock_opl : (requestLock s).opl = s.opl := rfl
@[simp] theorem requestLock_rngl : (requestLock s).rngl = s.rngl := rfl
@[simp] theorem requestLock_datal : (requestLock s).datal = s.datal := rfl
@[simp] theorem requestLock_cnt : (requestLock s).cnt = s.cnt := rfl
@[simp] theorem requestLock_usable : (requestLock s).usable = s.usable := rfl
@[simp] theorem requestLock_buf : (requestLock s).buf = s.buf := rfl
@[simp] theorem requestLock_rspq : (requestLock s).rspq = s.rspq := rfl
@[simp] theorem requestLock_lock : (requestLock s).lock = true := rfl
@[simp] theorem requestLock_breq : (requestLock s).breq = s.breq := rfl
@[simp] theorem requestLock_cmdValid : (requestLock s).cmdValid = s.cmdValid := rfl
@[simp] theorem requestLock_cmdWord : (requestLock s).cmdWord = s.cmdWord := rfl
@[simp] theorem requestLock_rspReady : (requestLock s).rspReady = s.rspReady := rfl
@[simp] theorem requestLock_bresp : (requestLock s).bresp = s.bresp := rfl
@[simp] theorem requestLock_devReady : (requestLock s).devReady = s.devReady := rfl
@[simp] theorem requestLock_busLockGnt : (requestLock s).busLockGnt = s.busLockGnt := rfl
@[simp] theorem requestLock_rst : (requestLock s).rst = s.rst := rfl
@[simp] theorem requestLock_agenda : (requestLock s).agenda = s.agenda := rfl
@[simp] theorem requestLock_draws : (requestLock s).draws = s.draws := rfl

@[simp] theorem releaseLock_st : (releaseLock s).st = s.st := rfl
@[simp] theorem releaseLock_opl : (releaseLock s).opl = s.opl := rfl
@[simp] theorem releaseLock_rngl : (releaseLock s).rngl = s.rngl := rfl
@[simp] theorem releaseLock_datal : (releaseLock s).datal = s.datal := rfl
@[simp] theorem releaseLock_cnt : (releaseLock s).cnt = s.cnt := rfl
@[simp] theorem releaseLock_usable : (releaseLock s).usable = s.usable := rfl
@[simp] theorem releaseLock_buf : (releaseLock s).buf = s.buf := rfl
@[simp] theorem releaseLock_rspq : (releaseLock s).rspq = s.rspq := rfl
@[simp] theorem releaseLock_lock : (releaseLock s).lock = false := rfl
@[simp] theorem releaseLock_breq : (releaseLock s).breq = s.breq := rfl
@[simp] theorem releaseLock_cmdValid : (releaseLock s).cmdValid = s.cmdValid := rfl
@[simp] theorem releaseLock_cmdWord : (releaseLock s).cmdWord = s.cmdWord := rfl
@[simp] theorem releaseLock_rspReady : (releaseLock s).rspReady = s.rspReady := rfl
@[simp] theorem releaseLock_bresp : (releaseLock s).bresp = s.bresp := rfl
@[simp] theorem releaseLock_devReady : (releaseLock s).devReady = s.devReady := rfl
@[simp] theorem releaseLock_busLockGnt : (releaseLock s).busLockGnt = s.busLockGnt := rfl
@[simp] theorem releaseLock_rst : (releaseLock s).rst = s.rst := rfl
@[simp] theorem releaseLock_agenda : (releaseLock s).agenda = s.agenda := rfl
@[simp] theorem releaseLock_draws : (releaseLock s).draws = s.draws := rfl

@[simp] theorem issueRead_st (a : BitVec 7) (n : Nat) (st' : SeqState) : (issueRead a n st' s).st = st' := rfl
@[simp] theorem issueRead_opl (a : BitVec 7) (n : Nat) (st' : SeqState) : (issueRead a n st' s).opl = s.opl := rfl
@[simp] theorem issueRead_rngl (a : BitVec 7) (n : Nat) (st' : SeqState) : (issueRead a n st' s).rngl = s.rngl := rfl
@[simp] theorem issueRead_datal (a : BitVec 7) (n : Nat) (st' : SeqState) : (issueRead a n st' s).datal = s.datal := rfl
@[simp] theorem issueRead_cnt (a : BitVec 7) (n : Nat) (st' : SeqState) : (issueRead a n st' s).cnt = s.cnt := rfl
@[simp] theorem issueRead_usable (a : BitVec 7) (n : Nat) (st' : SeqState) : (issueRead a n st' s).usable = s.usable := rfl
@[simp] theorem issueRead_buf (a : BitVec 7) (n : Nat) (st' : SeqState) : (issueRead a n st' s).buf = s.buf := rfl
@[simp] theorem issueRead_rspq (a : BitVec 7) (n : Nat) (st' : SeqState) : (issueRead a n st' s).rspq = s.rspq := rfl
@[simp] theorem issueRead_lock (a : BitVec 7) (n : Nat) (st' : SeqState) : (issueRead a n st' s).lock = s.lock := rfl
@[simp] theorem issueRead_breq (a : BitVec 7) (n : Nat) (st' : SeqState) : (issueRead a n st' s).breq = some ⟨a, BitVec.ofNat 10 n⟩ := rfl
@[simp] theorem issueRead_cmdValid (a : BitVec 7) (n : Nat) (st' : SeqState) : (issueRead a n st' s).cmdValid = s.cmdValid := rfl
@[simp] theorem issueRead_cmdWord (a : BitVec 7) (n : Nat) (st' : SeqState) : (issueRead a n st' s).cmdWord = s.cmdWord := rfl
@[simp] theorem issueRead_rspReady (a : BitVec 7) (n : Nat) (st' : SeqState) : (issueRead a n st' s).rspReady = s.rspReady := rfl
@[simp] theorem issueRead_bresp (a : BitVec 7) (n : Nat) (st' : SeqState) : (issueRead a n st' s).bresp = s.bresp := rfl
@[simp] theorem issueRead_devReady (a : BitVec 7) (n : Nat) (st' : SeqState) : (issueRead a n st' s).devReady = s.devReady := rfl
@[simp] theorem issueRead_busLockGnt (a : BitVec 7) (n : Nat) (st' : SeqState) : (issueRead a n st' s).busLockGnt = s.busLockGnt := rfl
@[simp] theorem issueRead_rst (a : BitVec 7) (n : Nat) (st' : SeqState) : (issueRead a n st' s).rst = s.rst := rfl
@[simp] theorem issueRead_agenda (a : BitVec 7) (n : Nat) (st' : SeqState) : (issueRead a n st' s).agenda = s.agenda := rfl
@[simp] theorem issueRead_draws (a : BitVec 7) (n : Nat) (st' : SeqState) : (issueRead a n st' s).draws = s.draws := rfl

@[simp] theorem consumeAnswer_st : (consumeAnswer s).st = s.st := rfl
@[simp] theorem consumeAnswer_opl : (consumeAnswer s).opl = s.opl := rfl
@[simp] theorem consumeAnswer_rngl : (consumeAnswer s).rngl = s.rngl := rfl
@[simp] theorem consumeAnswer_datal : (consumeAnswer s).datal = s.datal := rfl
@[simp] theorem consumeAnswer_cnt : (consumeAnswer s).cnt = s.cnt := rfl
@[simp] theorem consumeAnswer_usable : (consumeAnswer s).usable = s.usable := rfl
@[simp] theorem consumeAnswer_buf : (consumeAnswer s).buf = s.buf := rfl
@[simp] theorem consumeAnswer_rspq : (consumeAnswer s).rspq = s.rspq := rfl
@[simp] theorem consumeAnswer_lock : (consumeAnswer s).lock = s.lock := rfl
@[simp] theorem consumeAnswer_breq : (consumeAnswer s).breq = none := rfl
@[simp] theorem consumeAnswer_cmdValid : (consumeAnswer s).cmdValid = s.cmdValid := rfl
@[simp] theorem consumeAnswer_cmdWord : (consumeAnswer s).cmdWord = s.cmdWord := rfl
@[simp] theorem consumeAnswer_rspReady : (consumeAnswer s).rspReady = s.rspReady := rfl
@[simp] theorem consumeAnswer_bresp : (consumeAnswer s).bresp = none := rfl
@[simp] theorem consumeAnswer_devReady : (consumeAnswer s).devReady = s.devReady := rfl
@[simp] theorem consumeAnswer_busLockGnt : (consumeAnswer s).busLockGnt = s.busLockGnt := rfl
@[simp] theorem consumeAnswer_rst : (consumeAnswer s).rst = s.rst := rfl
@[simp] theorem consumeAnswer_agenda : (consumeAnswer s).agenda = s.agenda := rfl
@[simp] theorem consumeAnswer_draws : (consumeAnswer s).draws = s.draws := rfl

@[simp] theorem raise_st (k : Status) : (raise k s).st = .resp := rfl
@[simp] theorem raise_opl (k : Status) : (raise k s).opl = s.opl := rfl
@[simp] theorem raise_rngl (k : Status) : (raise k s).rngl = s.rngl := rfl
@[simp] theorem raise_datal (k : Status) : (raise k s).datal = s.datal := rfl
@[simp] theorem raise_cnt (k : Status) : (raise k s).cnt = s.cnt := rfl
@[simp] theorem raise_usable (k : Status) : (raise k s).usable = s.usable := rfl
@[simp] theorem raise_buf (k : Status) : (raise k s).buf = s.buf := rfl
@[simp] theorem raise_rspq (k : Status) : (raise k s).rspq = [header 0 k s.opl] := rfl
@[simp] theorem raise_lock (k : Status) : (raise k s).lock = false := rfl
@[simp] theorem raise_breq (k : Status) : (raise k s).breq = none := rfl
@[simp] theorem raise_cmdValid (k : Status) : (raise k s).cmdValid = s.cmdValid := rfl
@[simp] theorem raise_cmdWord (k : Status) : (raise k s).cmdWord = s.cmdWord := rfl
@[simp] theorem raise_rspReady (k : Status) : (raise k s).rspReady = s.rspReady := rfl
@[simp] theorem raise_bresp (k : Status) : (raise k s).bresp = s.bresp := rfl
@[simp] theorem raise_devReady (k : Status) : (raise k s).devReady = s.devReady := rfl
@[simp] theorem raise_busLockGnt (k : Status) : (raise k s).busLockGnt = s.busLockGnt := rfl
@[simp] theorem raise_rst (k : Status) : (raise k s).rst = s.rst := rfl
@[simp] theorem raise_agenda (k : Status) : (raise k s).agenda = s.agenda := rfl
@[simp] theorem raise_draws (k : Status) : (raise k s).draws = s.draws := rfl

@[simp] theorem writeCnt_st (c : BitVec 8) : (writeCnt c s).st = s.st := rfl
@[simp] theorem writeCnt_opl (c : BitVec 8) : (writeCnt c s).opl = s.opl := rfl
@[simp] theorem writeCnt_rngl (c : BitVec 8) : (writeCnt c s).rngl = s.rngl := rfl
@[simp] theorem writeCnt_datal (c : BitVec 8) : (writeCnt c s).datal = s.datal := rfl
@[simp] theorem writeCnt_cnt (c : BitVec 8) : (writeCnt c s).cnt = c := rfl
@[simp] theorem writeCnt_usable (c : BitVec 8) : (writeCnt c s).usable = s.usable := rfl
@[simp] theorem writeCnt_buf (c : BitVec 8) : (writeCnt c s).buf = s.buf := rfl
@[simp] theorem writeCnt_rspq (c : BitVec 8) : (writeCnt c s).rspq = s.rspq := rfl
@[simp] theorem writeCnt_lock (c : BitVec 8) : (writeCnt c s).lock = s.lock := rfl
@[simp] theorem writeCnt_breq (c : BitVec 8) : (writeCnt c s).breq = s.breq := rfl
@[simp] theorem writeCnt_cmdValid (c : BitVec 8) : (writeCnt c s).cmdValid = s.cmdValid := rfl
@[simp] theorem writeCnt_cmdWord (c : BitVec 8) : (writeCnt c s).cmdWord = s.cmdWord := rfl
@[simp] theorem writeCnt_rspReady (c : BitVec 8) : (writeCnt c s).rspReady = s.rspReady := rfl
@[simp] theorem writeCnt_bresp (c : BitVec 8) : (writeCnt c s).bresp = s.bresp := rfl
@[simp] theorem writeCnt_devReady (c : BitVec 8) : (writeCnt c s).devReady = s.devReady := rfl
@[simp] theorem writeCnt_busLockGnt (c : BitVec 8) : (writeCnt c s).busLockGnt = s.busLockGnt := rfl
@[simp] theorem writeCnt_rst (c : BitVec 8) : (writeCnt c s).rst = s.rst := rfl
@[simp] theorem writeCnt_agenda (c : BitVec 8) : (writeCnt c s).agenda = s.agenda := rfl
@[simp] theorem writeCnt_draws (c : BitVec 8) : (writeCnt c s).draws = s.draws := rfl

@[simp] theorem writeUsable_st : (writeUsable s).st = s.st := rfl
@[simp] theorem writeUsable_opl : (writeUsable s).opl = s.opl := rfl
@[simp] theorem writeUsable_rngl : (writeUsable s).rngl = s.rngl := rfl
@[simp] theorem writeUsable_datal : (writeUsable s).datal = s.datal := rfl
@[simp] theorem writeUsable_cnt : (writeUsable s).cnt = s.cnt := rfl
@[simp] theorem writeUsable_usable : (writeUsable s).usable = usableOf s.cnt := rfl
@[simp] theorem writeUsable_buf : (writeUsable s).buf = s.buf := rfl
@[simp] theorem writeUsable_rspq : (writeUsable s).rspq = s.rspq := rfl
@[simp] theorem writeUsable_lock : (writeUsable s).lock = s.lock := rfl
@[simp] theorem writeUsable_breq : (writeUsable s).breq = s.breq := rfl
@[simp] theorem writeUsable_cmdValid : (writeUsable s).cmdValid = s.cmdValid := rfl
@[simp] theorem writeUsable_cmdWord : (writeUsable s).cmdWord = s.cmdWord := rfl
@[simp] theorem writeUsable_rspReady : (writeUsable s).rspReady = s.rspReady := rfl
@[simp] theorem writeUsable_bresp : (writeUsable s).bresp = s.bresp := rfl
@[simp] theorem writeUsable_devReady : (writeUsable s).devReady = s.devReady := rfl
@[simp] theorem writeUsable_busLockGnt : (writeUsable s).busLockGnt = s.busLockGnt := rfl
@[simp] theorem writeUsable_rst : (writeUsable s).rst = s.rst := rfl
@[simp] theorem writeUsable_agenda : (writeUsable s).agenda = s.agenda := rfl
@[simp] theorem writeUsable_draws : (writeUsable s).draws = s.draws := rfl

@[simp] theorem writeBuf_st (b : List Byte) : (writeBuf b s).st = s.st := rfl
@[simp] theorem writeBuf_opl (b : List Byte) : (writeBuf b s).opl = s.opl := rfl
@[simp] theorem writeBuf_rngl (b : List Byte) : (writeBuf b s).rngl = s.rngl := rfl
@[simp] theorem writeBuf_datal (b : List Byte) : (writeBuf b s).datal = s.datal := rfl
@[simp] theorem writeBuf_cnt (b : List Byte) : (writeBuf b s).cnt = s.cnt := rfl
@[simp] theorem writeBuf_usable (b : List Byte) : (writeBuf b s).usable = s.usable := rfl
@[simp] theorem writeBuf_buf (b : List Byte) : (writeBuf b s).buf = fillFirst b s.buf := rfl
@[simp] theorem writeBuf_rspq (b : List Byte) : (writeBuf b s).rspq = s.rspq := rfl
@[simp] theorem writeBuf_lock (b : List Byte) : (writeBuf b s).lock = s.lock := rfl
@[simp] theorem writeBuf_breq (b : List Byte) : (writeBuf b s).breq = s.breq := rfl
@[simp] theorem writeBuf_cmdValid (b : List Byte) : (writeBuf b s).cmdValid = s.cmdValid := rfl
@[simp] theorem writeBuf_cmdWord (b : List Byte) : (writeBuf b s).cmdWord = s.cmdWord := rfl
@[simp] theorem writeBuf_rspReady (b : List Byte) : (writeBuf b s).rspReady = s.rspReady := rfl
@[simp] theorem writeBuf_bresp (b : List Byte) : (writeBuf b s).bresp = s.bresp := rfl
@[simp] theorem writeBuf_devReady (b : List Byte) : (writeBuf b s).devReady = s.devReady := rfl
@[simp] theorem writeBuf_busLockGnt (b : List Byte) : (writeBuf b s).busLockGnt = s.busLockGnt := rfl
@[simp] theorem writeBuf_rst (b : List Byte) : (writeBuf b s).rst = s.rst := rfl
@[simp] theorem writeBuf_agenda (b : List Byte) : (writeBuf b s).agenda = s.agenda := rfl
@[simp] theorem writeBuf_draws (b : List Byte) : (writeBuf b s).draws = s.draws := rfl

@[simp] theorem takeWord_st : (takeWord s).st = if s.rspq.tail = [] then .idle else .resp := rfl
@[simp] theorem takeWord_opl : (takeWord s).opl = s.opl := rfl
@[simp] theorem takeWord_rngl : (takeWord s).rngl = s.rngl := rfl
@[simp] theorem takeWord_datal : (takeWord s).datal = s.datal := rfl
@[simp] theorem takeWord_cnt : (takeWord s).cnt = s.cnt := rfl
@[simp] theorem takeWord_usable : (takeWord s).usable = s.usable := rfl
@[simp] theorem takeWord_buf : (takeWord s).buf = s.buf := rfl
@[simp] theorem takeWord_rspq : (takeWord s).rspq = s.rspq.tail := rfl
@[simp] theorem takeWord_lock : (takeWord s).lock = s.lock := rfl
@[simp] theorem takeWord_breq : (takeWord s).breq = s.breq := rfl
@[simp] theorem takeWord_cmdValid : (takeWord s).cmdValid = s.cmdValid := rfl
@[simp] theorem takeWord_cmdWord : (takeWord s).cmdWord = s.cmdWord := rfl
@[simp] theorem takeWord_rspReady : (takeWord s).rspReady = s.rspReady := rfl
@[simp] theorem takeWord_bresp : (takeWord s).bresp = s.bresp := rfl
@[simp] theorem takeWord_devReady : (takeWord s).devReady = s.devReady := rfl
@[simp] theorem takeWord_busLockGnt : (takeWord s).busLockGnt = s.busLockGnt := rfl
@[simp] theorem takeWord_rst : (takeWord s).rst = s.rst := rfl
@[simp] theorem takeWord_agenda : (takeWord s).agenda = s.agenda := rfl
@[simp] theorem takeWord_draws : (takeWord s).draws = s.draws := rfl

@[simp] theorem resetStep_st : (resetStep s).st = .idle := rfl
@[simp] theorem resetStep_opl : (resetStep s).opl = Config.freeOpl s.draws := rfl
@[simp] theorem resetStep_rngl : (resetStep s).rngl = Config.freeRngl s.draws := rfl
@[simp] theorem resetStep_datal : (resetStep s).datal = Config.freeDatal s.draws := rfl
@[simp] theorem resetStep_cnt : (resetStep s).cnt = Config.freeCnt s.draws := rfl
@[simp] theorem resetStep_usable : (resetStep s).usable = Config.freeUsable s.draws := rfl
@[simp] theorem resetStep_buf : (resetStep s).buf = Vector.ofFn fun i => Config.freeBufByte s.draws i.val := rfl
@[simp] theorem resetStep_rspq : (resetStep s).rspq = [] := rfl
@[simp] theorem resetStep_lock : (resetStep s).lock = false := rfl
@[simp] theorem resetStep_breq : (resetStep s).breq = none := rfl
@[simp] theorem resetStep_cmdValid : (resetStep s).cmdValid = s.cmdValid := rfl
@[simp] theorem resetStep_cmdWord : (resetStep s).cmdWord = s.cmdWord := rfl
@[simp] theorem resetStep_rspReady : (resetStep s).rspReady = s.rspReady := rfl
@[simp] theorem resetStep_bresp : (resetStep s).bresp = none := rfl
@[simp] theorem resetStep_devReady : (resetStep s).devReady = s.devReady := rfl
@[simp] theorem resetStep_busLockGnt : (resetStep s).busLockGnt = s.busLockGnt := rfl
@[simp] theorem resetStep_rst : (resetStep s).rst = s.rst := rfl
@[simp] theorem resetStep_agenda : (resetStep s).agenda = s.agenda := rfl
@[simp] theorem resetStep_draws : (resetStep s).draws = s.draws + 1 := rfl

/-- What the host's word at the port changes, and that it changes nothing else. -/
theorem withFetchWord_eq (nbits w : Nat) :
    s.withFetchWord nbits w =
      { s with agenda := [], rst := false, st := .idle, cmdValid := true,
               cmdWord := BitVec.ofNat 32 (w % 2 ^ nbits) } := rfl

end Sys2Proof.Machine
end

