-- ==== Sys2Proof/Laws/Ops.lean ====
section
/-! SUPPORT. What each shared operation can do, said once: the wait steps (R140), the accept step (R141), the
sequencer's step, one step of the machine, and the buffer (R149, R150). Proofs cite these and unfold nothing. -/

namespace Sys2Proof.Machine

/-! ### The steps of a command in progress -/

theorem lockWaitStep_granted {s : State} (h : s.busLockGnt = true) :
    lockWaitStep s = { s with breq := some ⟨0x05#7, 1#10⟩, st := .cntWait } := by
  rw [lockWaitStep, if_pos h]
  rfl

theorem lockWaitStep_waits {s : State} (h : s.busLockGnt = false) : lockWaitStep s = s := by
  simp [lockWaitStep, h]

theorem cntWaitStep_waits {s : State} (h : s.bresp = none) : cntWaitStep s = s := by
  simp [cntWaitStep, h]

theorem cntWaitStep_count {s : State} {c : Byte} (h : s.bresp = some (.ok [c])) :
    cntWaitStep s = countArrived c (consumeAnswer s) := by
  simp [cntWaitStep, h]

/-- An error or an answer that is not one byte (R143, R56). -/
theorem cntWaitStep_error {s : State} {a : BusAnswer} (h : s.bresp = some a) (ha : ∀ c : Byte, a ≠ .ok [c]) :
    cntWaitStep s = raise .busError (consumeAnswer s) := by
  unfold cntWaitStep
  rw [h]
  split
  · next heq => cases heq
  · next c heq => exact absurd (Option.some.inj heq) (ha c)
  · rfl

/-- The three things a `CNT_WAIT` step can do. -/
theorem cntWaitStep_cases (s : State) :
    (s.bresp = none ∧ cntWaitStep s = s) ∨
    (∃ c, s.bresp = some (.ok [c]) ∧ cntWaitStep s = countArrived c (consumeAnswer s)) ∨
    (∃ a, s.bresp = some a ∧ (∀ c : Byte, a ≠ .ok [c]) ∧ cntWaitStep s = raise .busError (consumeAnswer s)) := by
  rcases hb : s.bresp with _ | a
  · exact .inl ⟨rfl, cntWaitStep_waits hb⟩
  · by_cases ha : ∃ c : Byte, a = .ok [c]
    · obtain ⟨c, rfl⟩ := ha
      exact .inr (.inl ⟨c, rfl, cntWaitStep_count hb⟩)
    · have ha' : ∀ c : Byte, a ≠ .ok [c] := fun c h => ha ⟨c, h⟩
      exact .inr (.inr ⟨a, rfl, ha', cntWaitStep_error hb ha'⟩)

theorem usableOf_toNat (c : BitVec 8) : (usableOf c).toNat = c.toNat - c.toNat % 3 := by
  have := c.isLt
  simp only [usableOf, BitVec.toNat_ofNat]
  omega

/-- `USABLE = 0` exactly for the counts 0, 1 and 2 (R147). -/
theorem usableOf_eq_zero_iff (c : BitVec 8) : usableOf c = 0#8 ↔ c.toNat < 3 := by
  have := usableOf_toNat c
  constructor
  · intro h
    rw [h, BitVec.toNat_ofNat] at this
    omega
  · intro h
    apply BitVec.eq_of_toNat_eq
    rw [this, BitVec.toNat_ofNat]
    omega

theorem countArrived_fifocnt {s : State} {c : Byte} (h : s.opl = 0x3#4) :
    countArrived c s = deliverCount (writeCnt c s) := by
  simp [countArrived, h]

theorem countArrived_drain_empty {s : State} {c : Byte} (h : s.opl ≠ 0x3#4) (hc : c.toNat < 3) :
    countArrived c s = emit .ok [drainWord c 0#8] (releaseLock (writeUsable (writeCnt c s))) := by
  simp [countArrived, h, continueDrain, (usableOf_eq_zero_iff c).2 hc]

theorem countArrived_drain_burst {s : State} {c : Byte} (h : s.opl ≠ 0x3#4) (hc : 3 ≤ c.toNat) :
    countArrived c s =
      issueRead 0x11#7 (burstBytes (usableOf c)) .burstWait (writeUsable (writeCnt c s)) := by
  have : usableOf c ≠ 0#8 := fun h0 => by have := (usableOf_eq_zero_iff c).1 h0; omega
  simp [countArrived, h, continueDrain, this, Config.addrFifoData]

theorem burstWaitStep_waits {s : State} (h : s.bresp = none) : burstWaitStep s = s := by
  simp [burstWaitStep, h]

theorem burstWaitStep_batch {s : State} {bytes : List Byte} (h : s.bresp = some (.ok bytes))
    (hl : bytes.length = burstBytes s.usable) :
    burstWaitStep s = deliverBatch bytes (consumeAnswer s) := by
  simp [burstWaitStep, h, hl]

/-- An error or an answer of another length (R149). -/
theorem burstWaitStep_error {s : State} {a : BusAnswer} (h : s.bresp = some a)
    (ha : ∀ bytes, a = .ok bytes → bytes.length ≠ burstBytes s.usable) :
    burstWaitStep s = raise .busError (consumeAnswer s) := by
  cases a with
  | err => simp [burstWaitStep, h]
  | ok bytes => simp [burstWaitStep, h, ha bytes rfl]

/-- The three things a `BURST_WAIT` step can do. -/
theorem burstWaitStep_cases (s : State) :
    (s.bresp = none ∧ burstWaitStep s = s) ∨
    (∃ bytes, s.bresp = some (.ok bytes) ∧ bytes.length = burstBytes s.usable ∧
      burstWaitStep s = deliverBatch bytes (consumeAnswer s)) ∨
    (∃ a, s.bresp = some a ∧ (∀ bytes, a = .ok bytes → bytes.length ≠ burstBytes s.usable) ∧
      burstWaitStep s = raise .busError (consumeAnswer s)) := by
  rcases hb : s.bresp with _ | a
  · exact .inl ⟨rfl, burstWaitStep_waits hb⟩
  · by_cases ha : ∃ bytes, a = .ok bytes ∧ bytes.length = burstBytes s.usable
    · obtain ⟨bytes, rfl, hl⟩ := ha
      exact .inr (.inl ⟨bytes, rfl, hl, burstWaitStep_batch hb hl⟩)
    · have ha' : ∀ bytes, a = .ok bytes → bytes.length ≠ burstBytes s.usable := fun b h hl => ha ⟨b, h, hl⟩
      exact .inr (.inr ⟨a, rfl, ha', burstWaitStep_error hb ha'⟩)

theorem respStep_takes {s : State} (h : s.rspReady = true) : respStep s = takeWord s := by
  simp [respStep, h]

theorem respStep_waits {s : State} (h : s.rspReady = false) : respStep s = s := by
  simp [respStep, h]

@[simp] theorem proceed_lockWait {s : State} (h : s.st = .lockWait) : proceed s = lockWaitStep s := by
  simp [proceed, h]

@[simp] theorem proceed_cntWait {s : State} (h : s.st = .cntWait) : proceed s = cntWaitStep s := by
  simp [proceed, h]

@[simp] theorem proceed_burstWait {s : State} (h : s.st = .burstWait) : proceed s = burstWaitStep s := by
  simp [proceed, h]

@[simp] theorem proceed_resp {s : State} (h : s.st = .resp) : proceed s = respStep s := by
  simp [proceed, h]

/-- Everything a command in progress can do in one step (R140): wait, issue the count read, end with the count, end
with an empty batch, issue the burst, end with the batch, end with BUS_ERROR, or hand over a response word. -/
theorem proceed_cases (s : State) (hs : s.st ≠ .idle) :
    proceed s = s ∨
    (s.st = .lockWait ∧ s.busLockGnt = true ∧ proceed s = { s with breq := some ⟨0x05#7, 1#10⟩, st := .cntWait }) ∨
    (s.st = .cntWait ∧ ∃ c, s.bresp = some (.ok [c]) ∧ s.opl = 3#4 ∧
      proceed s = deliverCount (writeCnt c (consumeAnswer s))) ∨
    (s.st = .cntWait ∧ ∃ c, s.bresp = some (.ok [c]) ∧ s.opl ≠ 3#4 ∧ c.toNat < 3 ∧
      proceed s = emit .ok [drainWord c 0#8] (releaseLock (writeUsable (writeCnt c (consumeAnswer s))))) ∨
    (s.st = .cntWait ∧ ∃ c, s.bresp = some (.ok [c]) ∧ s.opl ≠ 3#4 ∧ 3 ≤ c.toNat ∧
      proceed s =
        issueRead 0x11#7 (burstBytes (usableOf c)) .burstWait (writeUsable (writeCnt c (consumeAnswer s)))) ∨
    (s.st = .burstWait ∧ ∃ bytes, s.bresp = some (.ok bytes) ∧ bytes.length = burstBytes s.usable ∧
      proceed s = deliverBatch bytes (consumeAnswer s)) ∨
    ((s.st = .cntWait ∨ s.st = .burstWait) ∧ s.bresp ≠ none ∧ proceed s = raise .busError (consumeAnswer s)) ∨
    (s.st = .resp ∧ s.rspReady = true ∧ proceed s = takeWord s) := by
  cases h : s.st with
  | idle => exact absurd h hs
  | lockWait =>
    rw [proceed_lockWait h]
    cases hg : s.busLockGnt with
    | false => exact .inl (lockWaitStep_waits hg)
    | true =>
      refine .inr (.inl ⟨rfl, rfl, ?_⟩)
      rw [lockWaitStep_granted hg, hg]
  | cntWait =>
    rw [proceed_cntWait h]
    rcases cntWaitStep_cases s with ⟨_, e⟩ | ⟨c, hb, e⟩ | ⟨a, hb, _, e⟩ <;> rw [e]
    · exact .inl rfl
    · by_cases ho : s.opl = 3#4
      · exact .inr (.inr (.inl ⟨rfl, c, hb, ho, countArrived_fifocnt ho⟩))
      · by_cases hc : c.toNat < 3
        · exact .inr (.inr (.inr (.inl ⟨rfl, c, hb, ho, hc, countArrived_drain_empty ho hc⟩)))
        · have hc' : 3 ≤ c.toNat := Nat.le_of_not_lt hc
          exact .inr (.inr (.inr (.inr (.inl ⟨rfl, c, hb, ho, hc', countArrived_drain_burst ho hc'⟩))))
    · exact .inr (.inr (.inr (.inr (.inr (.inr (.inl ⟨.inl rfl, by simp [hb], rfl⟩))))))
  | burstWait =>
    rw [proceed_burstWait h]
    rcases burstWaitStep_cases s with ⟨_, e⟩ | ⟨bytes, hb, hl, e⟩ | ⟨a, hb, _, e⟩ <;> rw [e]
    · exact .inl rfl
    · exact .inr (.inr (.inr (.inr (.inr (.inl ⟨rfl, bytes, hb, hl, rfl⟩)))))
    · exact .inr (.inr (.inr (.inr (.inr (.inr (.inl ⟨.inr rfl, by simp [hb], rfl⟩))))))
  | resp =>
    rw [proceed_resp h]
    cases hr : s.rspReady with
    | false => exact .inl (respStep_waits hr)
    | true => exact .inr (.inr (.inr (.inr (.inr (.inr (.inr ⟨rfl, rfl, respStep_takes hr⟩))))))

/-! ### The accept step -/

/-- The accept step of a command (R141): what `exec` does with it in `IDLE`. -/
def acceptOf : Instr → State → State
  | .decaxis rng b0 b1 b2 => acceptDecaxis rng b0 b1 b2
  | .dectemp hi lo => acceptDectemp hi lo
  | .fifocnt => acceptFifocnt
  | .fifodrain rng => acceptFifodrain rng

theorem exec_idle (i : Instr) {s : State} (h : s.st = .idle) : exec i s = .next (acceptOf i s) := by
  cases i <;> simp [exec, execDecaxis, execDectemp, execFifocnt, execFifodrain, offered, acceptOf, h]

theorem exec_busy (i : Instr) {s : State} (h : s.st ≠ .idle) : exec i s = .next (proceed s) := by
  have ho : ∀ f, offered f s = proceed s := by
    intro f
    unfold offered
    split
    · next h' => exact absurd h' h
    · rfl
  cases i <;> simp [exec, execDecaxis, execDectemp, execFifocnt, execFifodrain, ho]

/-- Everything an accept step can do: a response at once, an error at once, or the request of the lock. -/
theorem acceptOf_cases (i : Instr) (s : State) :
    (∃ p, p.length ≤ 2 ∧ acceptOf i s = emit .ok p (latch i.opCode i.rangeCode i.data s)) ∨
    (∃ k, k ≠ .ok ∧ acceptOf i s = raise k (latch i.opCode i.rangeCode i.data s)) ∨
    (s.devReady = true ∧ (i = .fifocnt ∨ ∃ rng, rng ≠ 0#2 ∧ i = .fifodrain rng) ∧
      acceptOf i s = requestLock (latch i.opCode i.rangeCode i.data s)) := by
  cases i with
  | decaxis rng b0 b1 b2 =>
    by_cases h : rng = 0#2
    · exact .inr (.inl ⟨.invalidRange, by decide, by simp [acceptOf, acceptDecaxis, Instr.opCode, Instr.rangeCode, Instr.data, h]⟩)
    · refine .inl ⟨[word32 (sx20 (unpack b0 b1 b2)), word32 (axisValue rng b0 b1 b2)], Nat.le_refl 2, ?_⟩
      simp only [acceptOf, acceptDecaxis, Instr.opCode, Instr.rangeCode, Instr.data, if_neg h]
  | dectemp hi lo => exact .inl ⟨[(traw hi lo).setWidth 32, tlut (traw hi lo)], Nat.le_refl 2, rfl⟩
  | fifocnt =>
    cases h : s.devReady with
    | true => exact .inr (.inr ⟨rfl, .inl rfl, by simp [acceptOf, acceptFifocnt, Instr.opCode, Instr.rangeCode, Instr.data, h]⟩)
    | false => exact .inr (.inl ⟨.notReady, by decide, by simp [acceptOf, acceptFifocnt, Instr.opCode, Instr.rangeCode, Instr.data, h]⟩)
  | fifodrain rng =>
    cases h : s.devReady with
    | false => exact .inr (.inl ⟨.notReady, by decide, by simp [acceptOf, acceptFifodrain, Instr.opCode, Instr.rangeCode, Instr.data, h]⟩)
    | true =>
      by_cases hr : rng = 0#2
      · exact .inr (.inl ⟨.invalidRange, by decide, by simp [acceptOf, acceptFifodrain, Instr.opCode, Instr.rangeCode, Instr.data, h, hr]⟩)
      · exact .inr (.inr ⟨rfl, .inr ⟨rng, hr, rfl⟩, by simp [acceptOf, acceptFifodrain, Instr.opCode, Instr.rangeCode, Instr.data, h, hr]⟩)

theorem acceptWord_ok {w : Word} {i : Instr} (h : decode w = .ok i) (s : State) :
    acceptWord w s = exec i s := by
  simp [acceptWord, h]

theorem acceptWord_error {w : Word} {e : DecodeError} (h : decode w = .error e) (s : State) :
    acceptWord w s = .next (rejectWord w s) := by
  simp [acceptWord, h]

/-! ### The sequencer's step and one step of the machine -/

theorem sdfrStep_busy {s : State} (hr : s.rst = false) (h : s.st ≠ .idle) : sdfrStep s = .next (proceed s) := by
  cases h' : s.st <;> simp_all [sdfrStep]

theorem sdfrStep_idle {s : State} (hr : s.rst = false) (h : s.st = .idle) :
    sdfrStep s = if s.cmdValid then acceptWord s.cmdWord s else .next s := by
  simp [sdfrStep, hr, h]

/-- Everything the sequencer's step can do. -/
theorem sdfrStep_cases (s : State) :
    (s.rst = true ∧ sdfrStep s = .next (resetStep s)) ∨
    (s.rst = false ∧ s.st = .idle ∧ s.cmdValid = false ∧ sdfrStep s = .next s) ∨
    (s.rst = false ∧ s.st = .idle ∧ s.cmdValid = true ∧ ∃ i, decode s.cmdWord = .ok i ∧
      sdfrStep s = .next (acceptOf i s)) ∨
    (s.rst = false ∧ s.st = .idle ∧ s.cmdValid = true ∧ (∃ e, decode s.cmdWord = .error e) ∧
      sdfrStep s = .next (rejectWord s.cmdWord s)) ∨
    (s.rst = false ∧ s.st ≠ .idle ∧ sdfrStep s = .next (proceed s)) := by
  by_cases hr : s.rst = true
  · exact .inl ⟨hr, by simp [sdfrStep, hr]⟩
  replace hr : s.rst = false := by simpa using hr
  by_cases h : s.st = .idle
  · by_cases hv : s.cmdValid = true
    · cases hd : decode s.cmdWord with
      | ok i =>
        refine .inr (.inr (.inl ⟨hr, h, hv, i, rfl, ?_⟩))
        rw [sdfrStep_idle hr h, if_pos hv, acceptWord_ok hd, exec_idle i h]
      | error e =>
        refine .inr (.inr (.inr (.inl ⟨hr, h, hv, ⟨e, rfl⟩, ?_⟩)))
        rw [sdfrStep_idle hr h, if_pos hv, acceptWord_error hd]
    · exact .inr (.inl ⟨hr, h, by simpa using hv, by simp [sdfrStep_idle hr h, hv]⟩)
  · exact .inr (.inr (.inr (.inr ⟨hr, h, sdfrStep_busy hr h⟩)))

@[simp] theorem step_of_no_agenda {s : State} (h : s.agenda = []) : step s = sdfrStep s := by
  simp [step, h]

theorem step_of_agenda {s : State} {e : Event} {rest : List Event} (h : s.agenda = e :: rest) :
    step s = agentMove e { s with agenda := rest } := by
  simp [step, h]

theorem answerArrives_pending {s : State} (a : BusAnswer) (h : s.breq ≠ none) :
    answerArrives a s = { s with bresp := some a } := by
  simp [answerArrives, Option.isSome_iff_ne_none, h]

theorem answerArrives_ignored {s : State} (a : BusAnswer) (h : s.breq = none) : answerArrives a s = s := by
  simp [answerArrives, h]

/-- Every step is the sequencer's, with the move taken off the agenda, or one other agent's. -/
theorem step_cases {s t : State} (h : step s = .next t) :
    (Safety.SdfrMoves s ∧ sdfrStep { s with agenda := s.agenda.tail } = .next t) ∨
    (∃ e rest, s.agenda = e :: rest ∧ e ≠ .sdfr ∧ agentMove e { s with agenda := rest } = .next t) := by
  cases ha : s.agenda with
  | nil =>
    rw [step_of_no_agenda ha] at h
    refine .inl ⟨.inl ha, ?_⟩
    have hs : ({ s with agenda := ([] : List Event).tail } : State) = s := by rw [List.tail_nil, ← ha]
    rw [hs]
    exact h
  | cons e rest =>
    rw [step_of_agenda ha] at h
    by_cases he : e = .sdfr
    · subst he
      exact .inl ⟨.inr (by rw [ha]; rfl), h⟩
    · exact .inr ⟨e, rest, rfl, he, h⟩

/-- No agent but the sequencer changes a register of the block (R20). -/
theorem agentMove_keeps_registers {s t : State} {e : Event} (he : e ≠ .sdfr) (h : agentMove e s = .next t) :
    t.st = s.st ∧ t.opl = s.opl ∧ t.rngl = s.rngl ∧ t.datal = s.datal ∧ t.cnt = s.cnt ∧ t.usable = s.usable ∧
      t.buf = s.buf ∧ t.rspq = s.rspq ∧ t.lock = s.lock ∧ t.breq = s.breq ∧ t.draws = s.draws := by
  cases e with
  | sdfr => exact absurd rfl he
  | answer a =>
    rw [agentMove] at h
    injection h with h
    subst h
    unfold answerArrives
    split <;> simp
  | _ =>
    injection h with h
    subst h
    simp

theorem coreRun_zero (M : Host.Core) (s : M.State) : M.run 0 s = .next s := rfl

theorem coreRun_succ (M : Host.Core) (k : Nat) (s t : M.State) (h : M.step s = .next t) :
    M.run (k + 1) s = M.run k t := by
  simp [Host.Core.run, h]

@[simp] theorem run_zero (s : State) : Host.Core.run Sys2Proof.core 0 s = .next s := rfl

/-- A run takes its first step and goes on from there. -/
theorem run_succ (k : Nat) {s t : State} (h : step s = .next t) :
    Host.Core.run Sys2Proof.core (k + 1) s = Host.Core.run Sys2Proof.core k t :=
  coreRun_succ Sys2Proof.core k s t h

/-! ### The buffer and the batch -/

theorem toList_fillFirst {bytes : List Byte} (buf : Vector Byte Config.bufBytes) :
    (fillFirst bytes buf).toList = (bytes ++ buf.toList.drop bytes.length).take Config.bufBytes := by
  simp [fillFirst, Vector.toList]

/-- After a burst of `3·USABLE` bytes has landed, the meaningful bytes of `BUF` are the burst (R149, R150). -/
theorem burstData_writeBuf {s : State} {bytes : List Byte} (h : bytes.length = burstBytes s.usable) :
    burstData (writeBuf bytes s) = bytes := by
  have hu := s.usable.isLt
  have hl : bytes.length ≤ Config.bufBytes := by
    rw [h, burstBytes, Config.bufBytes]
    omega
  rw [burstData, writeBuf_usable, writeBuf_buf, toList_fillFirst, ← h, List.take_take,
    Nat.min_eq_left hl, List.take_left']
  rfl

/-- A burst of `n` entries decodes to `n` values (R150). -/
theorem length_entryValues (c : BitVec 2) (n : Nat) :
    ∀ bytes : List Byte, bytes.length = 3 * n → (entryValues c bytes).length = n := by
  induction n with
  | zero =>
    intro bytes h
    cases bytes with
    | nil => rfl
    | cons b bs => simp at h
  | succ n ih =>
    intro bytes h
    match bytes, h with
    | b0 :: b1 :: b2 :: rest, h =>
      have hr : rest.length = 3 * n := by
        simp only [List.length_cons] at h
        omega
      simp [entryValues, ih rest hr]

end Sys2Proof.Machine
end

