-- ==== Sys2Proof/Laws/PerInstr.lean ====
section
/-! SUPPORT. What holds of every command as syntax, one lemma per constructor: its word has the fixed bits of its
row of spec/opcode_table.json. -/

namespace Sys2Proof.Laws.TableRow

/-- The `mask` of the command's row of spec/opcode_table.json. -/
def mask : Instr → Word
  | .decaxis _ _ _ _ => 0x000000CF#32
  | .dectemp _ _ => 0x0000FFFF#32
  | .fifocnt => 0xFFFFFFFF#32
  | .fifodrain _ => 0xFFFFFFCF#32

/-- The `match` of the command's row of spec/opcode_table.json. -/
def pattern : Instr → Word
  | .decaxis _ _ _ _ => 0x00000001#32
  | .dectemp _ _ => 0x00000002#32
  | .fifocnt => 0x00000003#32
  | .fifodrain _ => 0x00000004#32

/-- The word of the command has its row's fixed bits. -/
def Statement (i : Instr) : Prop := encode i &&& mask i = pattern i

end Sys2Proof.Laws.TableRow

open Sys2Proof Sys2Proof.Laws.TableRow

theorem Sys2Proof.Laws.TableRow.decaxis (rng : BitVec 2) (b0 b1 b2 : Byte) :
    Statement (.decaxis rng b0 b1 b2) := by
  show (b0 ++ b1 ++ b2 ++ 0#2 ++ rng ++ 0x1#4 : Word) &&&
    (0#8 ++ 0#8 ++ 0#8 ++ 3#2 ++ 0#2 ++ 15#4 : Word) = (0#8 ++ 0#8 ++ 0#8 ++ 0#2 ++ 0#2 ++ 1#4 : Word)
  simp only [BitVec.and_append, BitVec.and_zero, BitVec.zero_and]
  rfl

theorem Sys2Proof.Laws.TableRow.dectemp (hi lo : Byte) : Statement (.dectemp hi lo) := by
  show (hi ++ lo ++ 0#8 ++ 0#2 ++ 0#2 ++ 0x2#4 : Word) &&&
    (0#8 ++ 0#8 ++ 255#8 ++ 3#2 ++ 3#2 ++ 15#4 : Word) = (0#8 ++ 0#8 ++ 0#8 ++ 0#2 ++ 0#2 ++ 2#4 : Word)
  simp only [BitVec.and_append, BitVec.and_zero, BitVec.zero_and]
  rfl

theorem Sys2Proof.Laws.TableRow.fifocnt : Statement .fifocnt := by
  show encode .fifocnt &&& mask .fifocnt = pattern .fifocnt
  decide

theorem Sys2Proof.Laws.TableRow.fifodrain (rng : BitVec 2) : Statement (.fifodrain rng) := by
  show encode (.fifodrain rng) &&& mask (.fifodrain rng) = pattern (.fifodrain rng)
  revert rng
  decide
end

