-- ==== Sys2Proof/Tests/Slice0.lean ====
section
/-! SUPPORT. The model's own tests. Expected values come from the encodings of R80, R84 and R94 written out by hand,
from R57, and from the vectors of 95_test_vectors.md, which are named in each test. Then, for every obligation that
has hypotheses, a witness: states and operands that meet them together, one for each clause, at its boundary. -/

namespace Sys2Proof.Tests

open Sys2Proof Sys2Proof.Machine Sys2Proof.Safety

/-! ### Small states -/

/-- The state after reset with `dev_ready` at a level. -/
def idle (ready : Bool) : State := { State.reset with devReady := ready }

/-- The host offers `w`. -/
def offering (w : Word) (s : State) : State := { s with cmdValid := true, cmdWord := w }

/-- A FIFO command that waits for the lock. -/
def waitsForLock (granted : Bool) : State :=
  { State.reset with st := .lockWait, opl := 4#4, rngl := 1#2, lock := true, busLockGnt := granted }

/-- A FIFO command (`op`, `rng`) whose count read is pending, with what stands on the answer port. -/
def waitsForCount (op : BitVec 4) (rng : BitVec 2) (a : Option BusAnswer) : State :=
  { State.reset with
    st := .cntWait, opl := op, rngl := rng, lock := true, busLockGnt := true, breq := some ⟨0x05#7, 1#10⟩, bresp := a }

/-- A FIFODRAIN whose burst for the count `n` (`u` entries) is pending, with what stands on the answer port. -/
def waitsForBurst (rng : BitVec 2) (n u : BitVec 8) (a : Option BusAnswer) : State :=
  { State.reset with
    st := .burstWait, opl := 4#4, rngl := rng, cnt := n, usable := u, lock := true, busLockGnt := true
    breq := some ⟨0x11#7, BitVec.ofNat 10 (3 * u.toNat)⟩, bresp := a }

/-- A response `q` that the host takes or not. -/
def responds (q : List Word) (ready : Bool) : State :=
  { State.reset with st := .resp, rspq := q, rspReady := ready }

/-- What a step leaves in one field. -/
def after {α : Type} (f : State → α) : Host.Outcome State Fault Refusal → Option α
  | .next t => some (f t)
  | .fault _ => none
  | .refused _ => none

/-- The burst of vector D4. -/
def burstD4 : List Byte := [0x00#8, 0x01#8, 0x00#8, 0xFF#8, 0xFF#8, 0xF0#8, 0x80#8, 0x00#8, 0x00#8]

/-! ### Well-formedness: each check refuses an ill-formed term (R86, R92) -/

theorem test_legal_refuses_each_clause :
    legal 0x00000051#32 = false ∧ legal 0x00000000#32 = false ∧ legal 0x00000005#32 = false ∧
    legal 0x073C0012#32 = false ∧ legal 0x073C0102#32 = false ∧
    legal 0x00000013#32 = false ∧ legal 0x00000103#32 = false ∧
    legal 0x00010014#32 = false ∧ legal 0x000000C4#32 = false := by decide

theorem test_legal_accepts_the_examples :
    legal 0x12345601#32 = true ∧ legal 0x073C0002#32 = true ∧ legal 0x00000003#32 = true ∧
    legal 0x00000004#32 = true := by decide

theorem test_every_command_is_well_formed :
    (Instr.decaxis 0#2 0#8 0#8 0#8).wellFormed = true ∧ (Instr.dectemp 255#8 255#8).wellFormed = true ∧
    Instr.fifocnt.wellFormed = true ∧ (Instr.fifodrain 0#2).wellFormed = true := by decide

theorem test_line_refuses_each_literal :
    (AsmLine.decaxis .twoG 256 0 0).wellFormed = false ∧ (AsmLine.decaxis .twoG 0 256 0).wellFormed = false ∧
    (AsmLine.decaxis .twoG 0 0 256).wellFormed = false ∧ (AsmLine.dectemp 256 0).wellFormed = false ∧
    (AsmLine.dectemp 0 256).wellFormed = false ∧ (AsmLine.word 4294967296).wellFormed = false := by decide

/-! ### Decoding: words written out from R80 and R84 field by field, and R94's examples -/

theorem test_decode_decaxis :
    decode 0b00010010_00110100_01010110_00_01_0001#32 = .ok (.decaxis 1#2 0x12#8 0x34#8 0x56#8) ∧
    decode 0b10000000_00000000_00000000_00_11_0001#32 = .ok (.decaxis 3#2 0x80#8 0x00#8 0x00#8) := by decide

theorem test_decode_dectemp :
    decode 0b00000111_00111100_00000000_00_00_0010#32 = .ok (.dectemp 0x07#8 0x3C#8) := by decide

theorem test_decode_fifocnt :
    decode 0b00000000_00000000_00000000_00_00_0011#32 = .ok .fifocnt := by decide

theorem test_decode_fifodrain :
    decode 0b00000000_00000000_00000000_00_10_0100#32 = .ok (.fifodrain 2#2) ∧
    decode 0b00000000_00000000_00000000_00_00_0100#32 = .ok (.fifodrain 0#2) := by decide

theorem test_decode_rejects_by_name :
    decode 0x00000108#32 = .error .illegalOp ∧ decode 0x12345685#32 = .error .reservedBits ∧
    decode 0x00000013#32 = .error .rangeNotZero ∧ decode 0x00000103#32 = .error .dataNotZero ∧
    decode 0x00010014#32 = .error .dataNotZero := by decide

theorem test_decode_table_word :
    decodeTableWord 32 0x073C0002 = some (.dectemp 0x07#8 0x3C#8) ∧ decodeTableWord 32 0 = none := by decide

/-! ### The assembler's text (R92, R94) -/

theorem test_assemble_r94 :
    Assembler.assembleText "DECAXIS 2G, 0x12, 0x34, 0x56".toList = some 0x12345611#32 ∧
    Assembler.assembleText "DECAXIS   RNG0, 18, 52, 86".toList = some 0x12345601#32 ∧
    Assembler.assembleText "DECTEMP 0x07, 0x3C".toList = some 0x073C0002#32 ∧
    Assembler.assembleText "FIFOCNT".toList = some 0x00000003#32 ∧
    Assembler.assembleText "FIFODRAIN 8G".toList = some 0x00000034#32 ∧
    Assembler.assembleText ".word 0x073C0012".toList = some 0x073C0012#32 := by decide

theorem test_assemble_refuses :
    Assembler.assembleText "DECAXIS 3G, 0, 0, 0".toList = none ∧
    Assembler.assembleText "DECAXIS 2G, 256, 0, 0".toList = none ∧
    Assembler.assembleText "dectemp 0, 0".toList = none ∧ Assembler.assembleText "FIFOCNT 1".toList = none ∧
    Assembler.assembleText ".word 0x100000000".toList = none := by decide

theorem test_disassemble_text :
    Assembler.lineText (disassemble 0x80000FF1#32) = ".word 2147487729".toList ∧
    Assembler.lineText (disassemble 0x8000FF31#32) = "DECAXIS 8G, 128, 0, 255".toList ∧
    Assembler.assembleText (Assembler.lineText (disassemble 0xFFFFFFFF#32)) = some 0xFFFFFFFF#32 := by decide

/-! ### Wire frames (R57; R58 for the write that SDFR never issues) -/

theorem test_wire_frames :
    pendingFrame (waitsForCount 3#4 0#2 none) = some [0x0B#8, 0xAA#8] ∧
    (pendingFrame (waitsForBurst 1#2 3#8 3#8 none)).map (·.take 2) = some [0x23#8, 0xAA#8] ∧
    writeFrame 0x2D#7 0x06#8 = [0x5A#8, 0x06#8] := by decide

/-! ### One step of each command (vectors of 95_test_vectors.md) -/

/-- A4, A7, A9, A11, A17, A20: range scaling, both extremes, the ignored nibble, the invalid range. -/
theorem test_decaxis_responses :
    ([(0x7FFFFF31, [0x00020001#32, 0x0007FFFF#32, 0x001FFFFC#32]),
      (0x80000031, [0x00020001#32, 0xFFF80000#32, 0xFFE00000#32]),
      (0xFFFFFF21, [0x00020001#32, 0xFFFFFFFF#32, 0xFFFFFFFE#32]),
      (0x00000F11, [0x00020001#32, 0x00000000#32, 0x00000000#32]),
      (0xC1800021, [0x00020001#32, 0xFFFC1800#32, 0xFFF83000#32]),
      (0x12345601, [0x00000021#32])] : List (Nat × List Word)).all (fun row =>
        after (·.rspq) (step ((idle false).withFetchWord 32 row.1)) = some row.2) = true := by decide

/-- P3, row 6: the latched command, with `dev_ready` 0 and no lock. -/
theorem test_decaxis_latches :
    after (fun t => (t.opl, t.rngl, t.datal, t.lock)) (step ((idle false).withFetchWord 32 0x00001F11)) =
      some (1#4, 1#2, 0x00001F#24, false) := by decide

/-- T2, T4, T6, T9, T13: the ignored nibble, the minimum, and values that rounding decides. -/
theorem test_dectemp_responses :
    ([(0xF73C0002, [0x00020002#32, 0x0000073C#32, 0x00190000#32]),
      (0x0FFF0002, [0x00020002#32, 0x00000FFF#32, 0xFF21279A#32]),
      (0x07330002, [0x00020002#32, 0x00000733#32, 0x0019FE96#32]),
      (0x07FF0002, [0x00020002#32, 0x000007FF#32, 0x000373FA#32]),
      (0x00010002, [0x00020002#32, 0x00000001#32, 0x00E587C7#32])] : List (Nat × List Word)).all (fun row =>
        after (·.rspq) (step ((idle false).withFetchWord 32 row.1)) = some row.2) = true := by decide

/-- P5, step 5: `DATAL` keeps the nibble the datapath ignores. -/
theorem test_dectemp_latches :
    after (fun t => (t.opl, t.rngl, t.datal)) (step ((idle true).withFetchWord 32 0xF73C0002)) =
      some (2#4, 0#2, 0xF73C00#24) := by decide

/-- F6 and the accept of F1: NOT_READY, or the lock. -/
theorem test_fifocnt_accept :
    after (fun t => (t.rspq, t.lock)) (step ((idle false).withFetchWord 32 3)) = some ([0x00000033#32], false) ∧
    after (fun t => (t.st, t.lock)) (step ((idle true).withFetchWord 32 3)) = some (.lockWait, true) := by decide

/-- F3, F4, F5: the count is not masked; an error and an empty answer are BUS_ERROR; the lock is released. -/
theorem test_fifocnt_answers :
    after (fun t => (t.rspq, t.cnt, t.lock)) (step (waitsForCount 3#4 0#2 (some (.ok [0xFF#8])))) =
      some ([0x00010003#32, 0x000000FF#32], 0xFF#8, false) ∧
    after (·.rspq) (step (waitsForCount 3#4 0#2 (some .err))) = some [0x00000013#32] ∧
    after (·.rspq) (step (waitsForCount 3#4 0#2 (some (.ok [])))) = some [0x00000013#32] := by decide

/-- D3, D8, X9: two entries make an empty batch, seven make a burst of 18 bytes, two bytes are BUS_ERROR. -/
theorem test_fifodrain_count_answers :
    after (fun t => (t.rspq, t.breq)) (step (waitsForCount 4#4 1#2 (some (.ok [0x02#8])))) =
      some ([0x00010004#32, 0x00000200#32], none) ∧
    after (fun t => (t.breq, t.usable)) (step (waitsForCount 4#4 1#2 (some (.ok [0x07#8])))) =
      some (some ⟨0x11#7, 18#10⟩, 6#8) ∧
    after (·.rspq) (step (waitsForCount 4#4 1#2 (some (.ok [0x01#8, 0x02#8])))) = some [0x00000014#32] := by decide

/-- D6, D11, X5, X6: values in order at the latched range; no partial batch. -/
theorem test_fifodrain_burst_answers :
    after (·.rspq) (step (waitsForBurst 1#2 5#8 3#8 (some (.ok burstD4)))) =
      some [0x00040004#32, 0x00000501#32, 0x00000010#32, 0xFFFFFFFF#32, 0xFFF80000#32] ∧
    after (·.rspq) (step (waitsForBurst 3#2 3#8 3#8
        (some (.ok [0x80#8, 0x00#8, 0x0F#8, 0x7F#8, 0xFF#8, 0xF0#8, 0x00#8, 0x00#8, 0x1E#8])))) =
      some [0x00040004#32, 0x00000301#32, 0xFFE00000#32, 0x001FFFFC#32, 0x00000004#32] ∧
    after (·.rspq) (step (waitsForBurst 1#2 3#8 3#8 (some .err))) = some [0x00000014#32] ∧
    after (·.rspq) (step (waitsForBurst 1#2 3#8 3#8 (some (.ok (burstD4.take 8))))) = some [0x00000014#32] := by
  decide

/-- §2.4: illegal words echo their `OP`, and ILLEGAL_CMD wins over NOT_READY. -/
theorem test_illegal_words :
    ([(0x00000000, 0x00000040#32), (0x0000000F, 0x0000004F#32), (0x12345685, 0x00000045#32),
      (0x073C0102, 0x00000042#32), (0x000000C4, 0x00000044#32)] : List (Nat × Word)).all (fun row =>
        after (·.rspq) (step ((idle false).withFetchWord 32 row.1)) = some [row.2]) = true := by decide

/-- §2.7, steps 8 and 9: the head is taken, and the last word ends the response. -/
theorem test_response_step :
    after (fun t => (t.rspq, t.st)) (step (responds [1#32, 2#32] true)) = some ([2#32], .resp) ∧
    after (fun t => (t.rspq, t.st)) (step (responds [2#32] true)) = some ([], .idle) := by decide

/-! ### The whole ROM (§2.3) -/

/-- The sum of `2 ^ depth` ROM entries from `r` on. -/
def romSum : Nat → Nat → Int
  | 0, r => tlutInt (BitVec.ofNat 12 r)
  | depth + 1, r => romSum depth r + romSum depth (r + 2 ^ depth)

/-- The exclusive or of `2 ^ depth` ROM words from `r` on. -/
def romXor : Nat → Nat → Word
  | 0, r => tlut (BitVec.ofNat 12 r)
  | depth + 1, r => romXor depth r ^^^ romXor depth (r + 2 ^ depth)

theorem test_rom_sum : romSum 12 0 = 912087322 := by decide +kernel

theorem test_rom_xor : romXor 12 0 = 0xFF5077A2#32 := by decide +kernel

/-! ### Witnesses: states and operands that meet an obligation's hypotheses, one for each clause -/

theorem witness_EncodeOfDecodeIsTheWord : decode 0xFFFFFF31#32 = .ok (.decaxis 3#2 0xFF#8 0xFF#8 0xFF#8) := by decide

theorem witness_DecoderAcceptsExactlyTheLegalWords :
    Rule.legalWord 0x12345601#32 ∧ Rule.legalWord 0x00000004#32 ∧ ¬ Rule.legalWord 0x00000044#32 ∧
    (0x12345601#32 : Word).toNat / 16 % 4 = 0 ∧ (0x12345601#32 : Word).toNat % 16 = 1 ∧
    (0x00000004#32 : Word).toNat / 16 % 4 = 0 ∧ (0x00000004#32 : Word).toNat % 16 = 4 ∧
    (idle true).st = .idle ∧ (idle true).devReady = true := by
  unfold Rule.legalWord
  decide

theorem witness_AssemblerAndDisassemblerAgree :
    (AsmLine.decaxis .eightG 255 0 15).wellFormed = true ∧
    (∀ v, AsmLine.decaxis .eightG 255 0 15 ≠ .word v) ∧
    (AsmLine.dectemp 0 255).wellFormed = true ∧ (∀ v, AsmLine.dectemp 0 255 ≠ .word v) ∧
    Rule.legalWord 0xFFFFFF01#32 ∧ ¬ Rule.legalWord 0x00000000#32 := by
  refine ⟨by decide, fun v h => AsmLine.noConfusion h, by decide, fun v h => AsmLine.noConfusion h, ?_, ?_⟩ <;>
    unfold Rule.legalWord <;> decide

theorem witness_ScalerIsExact :
    shiftOf 1#2 = some 0 ∧ divOf 1#2 = some 256000 ∧ shiftOf 2#2 = some 1 ∧ divOf 2#2 = some 128000 ∧
    shiftOf 3#2 = some 2 ∧ divOf 3#2 = some 64000 := by decide

theorem witness_RomIsStrictlyDecreasing :
    (0#12 : BitVec 12).toNat < (4095#12 : BitVec 12).toNat ∧
    (4094#12 : BitVec 12).toNat < (4095#12 : BitVec 12).toNat := by decide

theorem witness_SignOfResultsIsBitNineteen :
    (3#2 : BitVec 2) ≠ 0#2 ∧ (unpack 0x7F#8 0xFF#8 0xF0#8).getLsbD 19 = false ∧
    (unpack 0x80#8 0x00#8 0x00#8).getLsbD 19 = true := by decide

theorem witness_UsableIsTheLargestMultipleOfThree :
    255 % 3 = 0 ∧ 255 ≤ (255#8 : BitVec 8).toNat ∧ 0 % 3 = 0 ∧ 0 ≤ (2#8 : BitVec 8).toNat := by decide

theorem witness_DecaxisAnswersCountAndValue :
    (idle false).st = .idle ∧ (1#2 : BitVec 2) ≠ 0#2 ∧ (0#2 : BitVec 2) = 0#2 ∧
    (0x00000051#32 : Word).toNat % 16 = 1 ∧ (0x00000051#32 : Word).toNat / 64 % 4 ≠ 0 := by decide

theorem witness_DectempAnswersRawAndRomEntry :
    (idle false).st = .idle ∧
    (0x073C0012#32 : Word).toNat % 16 = 2 ∧ (0x073C0012#32 : Word).toNat / 16 % 4 ≠ 0 ∧
    (0x073C00C2#32 : Word).toNat % 16 = 2 ∧ (0x073C00C2#32 : Word).toNat / 64 % 4 ≠ 0 ∧
    (0x073C0102#32 : Word).toNat % 16 = 2 ∧ (0x073C0102#32 : Word).toNat / 256 % 256 ≠ 0 := by decide

theorem witness_AxisRoundTripIsExact :
    (idle false).st = .idle ∧ divOf 3#2 = some 64000 ∧
    -524288 ≤ (-524288 : Int) ∧ (-524288 : Int) ≤ 524287 ∧ -524288 ≤ (524287 : Int) ∧ (524287 : Int) ≤ 524287 ∧
    15 < 16 := by decide

theorem witness_DecodeCommandsArePure :
    (∃ rng b0 b1 b2, Instr.decaxis 0#2 1#8 2#8 3#8 = .decaxis rng b0 b1 b2) ∧
    (∃ hi lo, Instr.dectemp 1#8 2#8 = .dectemp hi lo) ∧
    (idle false).st = .idle ∧ (idle true).st = .idle ∧ SdfrInv (idle false) :=
  ⟨⟨_, _, _, _, rfl⟩, ⟨_, _, rfl⟩, rfl, rfl, by decide⟩

theorem witness_FifoPrologueChecksThenLocksThenReads :
    (idle false).st = .idle ∧ (idle false).devReady = false ∧ (idle true).st = .idle ∧
    (idle true).devReady = true ∧ (0#2 : BitVec 2) = 0#2 ∧ (3#2 : BitVec 2) ≠ 0#2 ∧
    (waitsForLock true).rst = false ∧ (waitsForLock true).st = .lockWait ∧
    (waitsForLock true).busLockGnt = true := by decide

theorem witness_FifocntDeliversTheCount :
    (∀ a : BusAnswer, (waitsForCount 3#4 0#2 (some a)).st = .cntWait ∧
      (waitsForCount 3#4 0#2 (some a)).opl = 3#4 ∧ (waitsForCount 3#4 0#2 (some a)).bresp = some a) ∧
    BusAnswer.ok [0xFF#8] = .ok [0xFF#8] ∧ (∀ c : Byte, BusAnswer.err ≠ .ok [c]) ∧
    (∀ c : Byte, BusAnswer.ok [] ≠ .ok [c]) ∧ (∀ c : Byte, BusAnswer.ok [1#8, 2#8] ≠ .ok [c]) :=
  ⟨fun _ => ⟨rfl, rfl, rfl⟩, rfl, by simp, by simp, by simp⟩

theorem witness_FifodrainCountStepEndsOrBursts :
    (∀ a : BusAnswer, (waitsForCount 4#4 2#2 (some a)).st = .cntWait ∧
      (waitsForCount 4#4 2#2 (some a)).opl = 4#4 ∧ (waitsForCount 4#4 2#2 (some a)).rngl = 2#2 ∧
      (waitsForCount 4#4 2#2 (some a)).bresp = some a) ∧
    (0#8 : Byte).toNat < 3 ∧ (2#8 : Byte).toNat < 3 ∧ 3 ≤ (3#8 : Byte).toNat ∧ 3 ≤ (255#8 : Byte).toNat ∧
    (∀ c : Byte, BusAnswer.err ≠ .ok [c]) ∧ (∀ c : Byte, BusAnswer.ok [] ≠ .ok [c]) :=
  ⟨fun _ => ⟨rfl, rfl, rfl, rfl⟩, by decide, by decide, by decide, by decide, by simp, by simp⟩

theorem witness_FifodrainDeliversTheWholeBatchOrNone :
    (∀ a : BusAnswer, (waitsForBurst 3#2 5#8 3#8 (some a)).st = .burstWait ∧
      (waitsForBurst 3#2 5#8 3#8 (some a)).opl = 4#4 ∧ (waitsForBurst 3#2 5#8 3#8 (some a)).rngl = 3#2 ∧
      (3#2 : BitVec 2) ≠ 0#2 ∧ (waitsForBurst 3#2 5#8 3#8 (some a)).bresp = some a) ∧
    burstD4.length = 3 * (waitsForBurst 3#2 5#8 3#8 none).usable.toNat ∧
    (List.replicate 765 0#8).length = 3 * (waitsForBurst 3#2 255#8 255#8 none).usable.toNat ∧
    (∀ bytes, BusAnswer.err = .ok bytes → bytes.length ≠ 3 * (waitsForBurst 3#2 5#8 3#8 none).usable.toNat) ∧
    (burstD4.take 8).length ≠ 3 * (waitsForBurst 3#2 5#8 3#8 none).usable.toNat :=
  ⟨fun _ => ⟨rfl, rfl, rfl, by decide, rfl⟩, by decide, by rw [List.length_replicate]; decide,
    fun _ h => BusAnswer.noConfusion h, by decide⟩

theorem witness_BurstKeepsTheRestOfTheBuffer :
    (waitsForBurst 3#2 3#8 3#8 (some (.ok burstD4))).st = .burstWait ∧
    (waitsForBurst 3#2 3#8 3#8 (some (.ok burstD4))).bresp = some (.ok burstD4) ∧
    burstD4.length = 3 * (waitsForBurst 3#2 3#8 3#8 (some (.ok burstD4))).usable.toNat ∧ burstD4.length ≤ 9 := by
  decide

theorem witness_FifocntRunsToItsResponse :
    SdfrInv (idle true) ∧ (idle true).st = .idle ∧ (idle true).rst = false ∧ (idle true).rspReady = false ∧
    SdfrInv (idle false) :=
  ⟨by decide, rfl, rfl, rfl, by decide⟩

theorem witness_FifodrainRunsToItsResponse :
    SdfrInv (idle true) ∧ (idle true).st = .idle ∧ (idle true).rst = false ∧ (idle true).rspReady = false ∧
    (idle true).devReady = true ∧ (idle false).devReady = false := by decide

theorem witness_StepRunsTheDecodedCommand :
    (offering 0x00000003#32 (idle true)).agenda = [] ∧ (offering 0x00000003#32 (idle true)).rst = false ∧
    (offering 0x00000003#32 (idle true)).cmdValid = true ∧
    decode (offering 0x00000003#32 (idle true)).cmdWord = .ok .fifocnt ∧
    decode (offering 0x00000003#32 (waitsForLock true)).cmdWord = .ok .fifocnt := by decide

theorem witness_FetchWordIsRunNext : decodeTableWord 32 0x12345611 = some (.decaxis 1#2 0x12#8 0x34#8 0x56#8) := by
  decide

theorem witness_AcceptLatchesEveryWord :
    (offering 0xFFFFFFFF#32 (idle true)).agenda = [] ∧ (offering 0xFFFFFFFF#32 (idle true)).rst = false ∧
    (offering 0xFFFFFFFF#32 (idle true)).st = .idle ∧ (offering 0xFFFFFFFF#32 (idle true)).cmdValid = true := by
  decide

theorem witness_IllegalWordsAreAnsweredAndDoNothing :
    (offering 0x00000044#32 (idle false)).agenda = [] ∧ (offering 0x00000044#32 (idle false)).rst = false ∧
    (offering 0x00000044#32 (idle false)).st = .idle ∧ (offering 0x00000044#32 (idle false)).cmdValid = true ∧
    ¬ Rule.legalWord (offering 0x00000044#32 (idle false)).cmdWord := by
  unfold Rule.legalWord
  decide

theorem witness_FirstApplicableErrorIsReported_statuses :
    Rule.acceptStatus 0x00000044#32 false 4 ∧ Rule.acceptStatus 0x00000004#32 false 3 ∧
    Rule.acceptStatus 0x00000003#32 false 3 ∧ Rule.acceptStatus 0x00000004#32 true 2 ∧
    Rule.acceptStatus 0x12345601#32 true 2 ∧
    (offering 0x00000044#32 (idle false)).agenda = [] ∧ (offering 0x00000044#32 (idle false)).rst = false ∧
    (offering 0x00000044#32 (idle false)).st = .idle ∧ (offering 0x00000044#32 (idle false)).cmdValid = true := by
  unfold Rule.acceptStatus Rule.legalWord
  refine ⟨?_, ?_, ?_, ?_, ?_, rfl, rfl, rfl, rfl⟩ <;> decide

theorem witness_FirstApplicableErrorIsReported_none :
    (∀ w ∈ [0x12345611#32, 0x073C0002#32, 0x00000003#32, 0x00000034#32], ∀ code, ¬ Rule.acceptStatus w true code) ∧
    (waitsForCount 4#4 1#2 (some .err)).agenda = [] ∧ (waitsForCount 4#4 1#2 (some .err)).rst = false ∧
    (waitsForCount 4#4 1#2 (some .err)).st = .cntWait ∧ (waitsForCount 4#4 1#2 (some .err)).bresp = some .err ∧
    (waitsForBurst 1#2 3#8 3#8 (some .err)).agenda = [] ∧ (waitsForBurst 1#2 3#8 3#8 (some .err)).rst = false ∧
    (waitsForBurst 1#2 3#8 3#8 (some .err)).st = .burstWait ∧
    (waitsForBurst 1#2 3#8 3#8 (some .err)).bresp = some .err := by
  refine ⟨?_, by decide⟩
  simp [Rule.acceptStatus, Rule.legalWord]

theorem witness_ErrorsChangeNothingElse :
    (∃ t, step (offering 0x00000000#32 (idle true)) = .next t ∧ (offering 0x00000000#32 (idle true)).st ≠ .resp ∧
      t.st = .resp ∧ t.rspq = [0x00000040#32] ∧ headerStatus 0x00000040#32 ≠ 0#3) ∧
    (∃ t, step (waitsForCount 3#4 0#2 (some .err)) = .next t ∧ (waitsForCount 3#4 0#2 (some .err)).st ≠ .resp ∧
      t.st = .resp ∧ t.rspq = [0x00000013#32] ∧ headerStatus 0x00000013#32 ≠ 0#3) :=
  ⟨⟨_, rfl, by decide, rfl, by decide, by decide⟩, ⟨_, rfl, by decide, rfl, by decide, by decide⟩⟩

theorem witness_ResponsesAreWellFormed :
    ∃ t, step (waitsForCount 3#4 0#2 (some (.ok [7#8]))) = .next t ∧
      (waitsForCount 3#4 0#2 (some (.ok [7#8]))).st ≠ .resp ∧ t.st = .resp :=
  ⟨_, rfl, by decide, rfl⟩

theorem witness_ResponseStepTakesTheHead :
    (responds [7#32] true).agenda = [] ∧ (responds [7#32] true).rst = false ∧ (responds [7#32] true).st = .resp ∧
    (responds [7#32] true).rspReady = true ∧ (responds [7#32] true).rspq = 7#32 :: [] ∧
    (responds [7#32, 8#32] true).rspq = 7#32 :: [8#32] := by decide

theorem witness_ResponseIsDeliveredInOrder :
    (responds [7#32, 8#32] true).agenda = [] ∧ (responds [7#32, 8#32] true).rst = false ∧
    (responds [7#32, 8#32] true).st = .resp ∧ (responds [7#32, 8#32] true).rspReady = true ∧
    (responds [7#32, 8#32] true).rspq ≠ [] ∧ 1 < (responds [7#32, 8#32] true).rspq.length := by decide

theorem witness_WaitsChangeNothing :
    (∀ s ∈ [idle true, waitsForLock false, waitsForCount 3#4 0#2 none, waitsForBurst 1#2 3#8 3#8 none,
      responds [7#32] false], s.agenda = [] ∧ s.rst = false) ∧
    ((idle true).st = .idle ∧ (idle true).cmdValid = false) ∧
    ((waitsForLock false).st = .lockWait ∧ (waitsForLock false).busLockGnt = false) ∧
    ((waitsForCount 3#4 0#2 none).st = .cntWait ∧ (waitsForCount 3#4 0#2 none).bresp = none) ∧
    ((waitsForBurst 1#2 3#8 3#8 none).st = .burstWait ∧ (waitsForBurst 1#2 3#8 3#8 none).bresp = none) ∧
    ((responds [7#32] false).st = .resp ∧ (responds [7#32] false).rspReady = false) := by
  refine ⟨?_, by decide⟩
  simp [idle, waitsForLock, waitsForCount, waitsForBurst, responds, State.reset]

theorem witness_ResetAbandonsEverything :
    ({ waitsForBurst 1#2 3#8 3#8 none with rst := true } : State).agenda = [] ∧
    ({ waitsForBurst 1#2 3#8 3#8 none with rst := true } : State).rst = true := by decide

theorem witness_EveryStepKeepsTheInvariant :
    SdfrInv (idle true) ∧ SdfrInv (waitsForLock true) ∧ SdfrInv (waitsForCount 3#4 0#2 (some .err)) ∧
    SdfrInv (waitsForCount 4#4 1#2 (some (.ok [3#8]))) ∧ SdfrInv (waitsForBurst 1#2 3#8 3#8 (some .err)) ∧
    SdfrInv (waitsForBurst 1#2 255#8 255#8 none) ∧ SdfrInv (responds [7#32] true) ∧
    (∃ t, step (waitsForLock true) = .next t) :=
  ⟨by decide, by decide, by decide, by decide, by decide, by decide, by decide, ⟨_, rfl⟩⟩

theorem witness_ReachableStatesMeetTheTableInvariant :
    ∃ s, Reachable s ∧ s.st = .idle ∧ s.devReady = true :=
  ⟨_, .step _ _ (.agents _ [.controllerReady true] .reset) rfl, rfl, rfl⟩

theorem witness_SequencerFollowsTheTable :
    (∃ t, step (waitsForLock true) = .next t ∧ t.st ≠ (waitsForLock true).st) ∧
    (∃ t, step { waitsForLock true with rst := true } = .next t ∧ t.st ≠ (waitsForLock true).st) :=
  ⟨⟨_, rfl, by decide⟩, ⟨_, rfl, by decide⟩⟩

theorem witness_OtherAgentsChangeOnlyTheirSignals :
    (∀ e : Event, ({ idle true with agenda := [e] } : State).agenda = e :: []) ∧
    ({ waitsForCount 3#4 0#2 none with agenda := [.answer .err] } : State).breq ≠ none ∧
    ({ idle true with agenda := [.answer .err] } : State).breq = none :=
  ⟨fun _ => rfl, by decide, by decide⟩

theorem witness_OnlyTwoKindsOfTransaction :
    (∃ t, step (waitsForLock true) = .next t ∧ t.breq = some ⟨0x05#7, 1#10⟩ ∧
      (waitsForLock true).breq ≠ some ⟨0x05#7, 1#10⟩) ∧
    (∃ t, step (waitsForCount 4#4 1#2 (some (.ok [3#8]))) = .next t ∧ t.breq = some ⟨0x11#7, 9#10⟩ ∧
      (waitsForCount 4#4 1#2 (some (.ok [3#8]))).breq ≠ some ⟨0x11#7, 9#10⟩) ∧
    (∃ t, step (waitsForCount 4#4 1#2 (some (.ok [255#8]))) = .next t ∧ t.breq = some ⟨0x11#7, 765#10⟩ ∧
      (waitsForCount 4#4 1#2 (some (.ok [255#8]))).breq ≠ some ⟨0x11#7, 765#10⟩) ∧
    (∃ rng b0 b1 b2, Instr.decaxis 1#2 1#8 2#8 3#8 = .decaxis rng b0 b1 b2) ∧
    (∃ hi lo, Instr.dectemp 1#8 2#8 = .dectemp hi lo) ∧ (idle true).st = .idle :=
  ⟨⟨_, rfl, by decide, by decide⟩, ⟨_, rfl, by decide, by decide⟩, ⟨_, rfl, by decide, by decide⟩,
    ⟨_, _, _, _, rfl⟩, ⟨_, _, rfl⟩, rfl⟩

theorem witness_LockIsReleasedExactlyAtTheEnd :
    (∃ t, SdfrInv (waitsForCount 3#4 0#2 (some (.ok [7#8]))) ∧
      step (waitsForCount 3#4 0#2 (some (.ok [7#8]))) = .next t ∧
      (waitsForCount 3#4 0#2 (some (.ok [7#8]))).lock = true ∧ t.lock = false ∧ t.st = .resp) ∧
    (∃ t, SdfrInv { waitsForLock false with rst := true } ∧
      step { waitsForLock false with rst := true } = .next t ∧ t.lock = false ∧ t.st = .idle) :=
  ⟨⟨_, by decide, rfl, rfl, by decide, by decide⟩, ⟨_, by decide, rfl, by decide, by decide⟩⟩

theorem witness_BusIsUsedOnlyUnderAGrantedLock :
    SdfrInv { waitsForCount 4#4 1#2 none with agenda := [.answer (.ok [7#8])] } ∧
    BusUseGranted { waitsForCount 4#4 1#2 none with agenda := [.answer (.ok [7#8])] } ∧
    conforms (.answer (.ok [7#8])) { waitsForCount 4#4 1#2 none with agenda := [] } = true ∧
    conforms (.grant false) { waitsForCount 4#4 1#2 none with agenda := [] } = false ∧
    (∃ t, step { waitsForCount 4#4 1#2 none with agenda := [.answer (.ok [7#8])] } = .next t) :=
  ⟨by decide, by decide, by decide, by decide, ⟨_, rfl⟩⟩

theorem witness_ReadinessIsSampledOnlyAtAccept :
    (waitsForLock true).st ≠ .idle ∧ (idle true).st = .idle ∧ (idle false).st = .idle := by decide

theorem witness_BusyBlockIgnoresTheCommandPort : (responds [7#32] true).st ≠ .idle := by decide

theorem witness_LatchedCommandChangesOnlyAtAccept :
    ∃ t, step (offering 0x12345631#32 (idle true)) = .next t ∧ t.opl ≠ (idle true).opl ∧
      t.rngl ≠ (idle true).rngl ∧ t.datal ≠ (idle true).datal :=
  ⟨_, rfl, by decide, by decide, by decide⟩

theorem witness_CountAndBufferChangeOnlyOnTheirAnswers :
    (∃ t, step (waitsForCount 4#4 1#2 (some (.ok [7#8]))) = .next t ∧ t.cnt ≠ (0#8 : BitVec 8) ∧
      t.usable ≠ (0#8 : BitVec 8)) ∧
    (∃ t, step (waitsForBurst 1#2 3#8 3#8 (some (.ok burstD4))) = .next t ∧
      t.buf ≠ (waitsForBurst 1#2 3#8 3#8 (some (.ok burstD4))).buf) := by
  refine ⟨⟨_, rfl, by decide, by decide⟩, ⟨_, rfl, fun h => ?_⟩⟩
  have h1 := congrArg (fun b : Vector Byte Config.bufBytes => b[1]?) h
  exact absurd h1 (by decide)

theorem witness_OutputsAreDefinedWhenValid :
    SdfrInv (responds [7#32] true) ∧ rspValid (responds [7#32] true) = true ∧
    SdfrInv (waitsForCount 3#4 0#2 none) ∧ breqValid (waitsForCount 3#4 0#2 none) = true ∧
    SdfrInv (waitsForBurst 1#2 255#8 255#8 none) ∧ breqValid (waitsForBurst 1#2 255#8 255#8 none) = true ∧
    SdfrInv (idle true) ∧ cmdReady (idle true) = true :=
  ⟨by decide, rfl, by decide, rfl, by decide, rfl, by decide, rfl⟩

theorem witness_ReadFramesAreAddressThenFiller :
    SdfrInv (waitsForCount 3#4 0#2 none) ∧ (waitsForCount 3#4 0#2 none).st = .cntWait ∧
    SdfrInv (waitsForBurst 1#2 3#8 3#8 none) ∧ (waitsForBurst 1#2 3#8 3#8 none).st = .burstWait :=
  ⟨by decide, rfl, by decide, rfl⟩

theorem witness_HeaderWordIsPackedAsStated : 257 < 65536 ∧ 65535 < 65536 := by decide

end Sys2Proof.Tests
end

section
/-! SUPPORT. The invariant, one rule for each value of `ST` (R40), and the step lemma: every operation of the block and
every move of the other agents keeps it; then what it says of the outputs (R39). -/

namespace Sys2Proof.Machine

open Sys2Proof.Safety

/-- `OPL` and `RNGL` are those of a FIFO command that passed its accept checks (R142). -/
def FifoCommandLatched (s : State) : Prop := s.opl = 0x3#4 ∨ (s.opl = 0x4#4 ∧ s.rngl ≠ 0#2)

theorem sdfrInv_iff_of_idle {s : State} (h : s.st = .idle) :
    SdfrInv s ↔ s.rspq = [] ∧ s.lock = false ∧ s.breq = none ∧ s.bresp = none := by
  constructor
  · rintro ⟨⟨hq, hb, hl, -⟩, -, -, -, ha⟩
    have hnone : s.breq = none := by simpa [h] using hb
    exact ⟨by simpa [h] using hq, by simpa [h] using hl, hnone, by simpa [hnone] using ha⟩
  · rintro ⟨hq, hl, hb, ha⟩
    simp [SdfrInv, TableInvariant, CommandInvariant, busWorkStates, seqCode, h, hq, hl, hb, ha]

theorem sdfrInv_iff_of_resp {s : State} (h : s.st = .resp) :
    SdfrInv s ↔ s.rspq ≠ [] ∧ s.rspq.length ≤ 257 ∧ s.lock = false ∧ s.breq = none ∧ s.bresp = none := by
  constructor
  · rintro ⟨⟨hq, hb, hl, -, hn, -⟩, -, -, -, ha⟩
    have hnone : s.breq = none := by simpa [h] using hb
    exact ⟨hq.1 h, hn, by simpa [h] using hl, hnone, by simpa [hnone] using ha⟩
  · rintro ⟨hq, hn, hl, hb, ha⟩
    simp [SdfrInv, TableInvariant, CommandInvariant, busWorkStates, seqCode, h, hq, hn, hl, hb, ha]

theorem sdfrInv_iff_of_lockWait {s : State} (h : s.st = .lockWait) :
    SdfrInv s ↔ s.rspq = [] ∧ s.lock = true ∧ s.breq = none ∧ s.bresp = none ∧ FifoCommandLatched s := by
  constructor
  · rintro ⟨⟨hq, hb, hl, -⟩, hc, -, -, ha⟩
    have hnone : s.breq = none := by simpa [h] using hb
    exact ⟨by simpa [h] using hq, hl.2 (.inl h), hnone, by simpa [hnone] using ha, hc (by simp [h, busWorkStates])⟩
  · rintro ⟨hq, hl, hb, ha, hc⟩
    simpa [SdfrInv, TableInvariant, CommandInvariant, FifoCommandLatched, busWorkStates, seqCode, h, hq, hl, hb, ha]
      using hc

theorem sdfrInv_iff_of_cntWait {s : State} (h : s.st = .cntWait) :
    SdfrInv s ↔ s.rspq = [] ∧ s.lock = true ∧ s.breq = some ⟨0x05#7, 1#10⟩ ∧ FifoCommandLatched s := by
  constructor
  · rintro ⟨⟨hq, -, hl, -⟩, hc, hb, -⟩
    exact ⟨by simpa [h] using hq, hl.2 (.inr (.inl h)), hb h, hc (by simp [h, busWorkStates])⟩
  · rintro ⟨hq, hl, hb, hc⟩
    simpa [SdfrInv, TableInvariant, CommandInvariant, FifoCommandLatched, busWorkStates, seqCode, h, hq, hl, hb]
      using hc

theorem sdfrInv_iff_of_burstWait {s : State} (h : s.st = .burstWait) :
    SdfrInv s ↔ s.rspq = [] ∧ s.lock = true ∧ s.breq = some ⟨0x11#7, BitVec.ofNat 10 (burstBytes s.usable)⟩ ∧
      3 ≤ s.usable.toNat ∧ s.usable = usableOf s.cnt ∧ s.opl = 0x4#4 ∧ s.rngl ≠ 0#2 := by
  have hu : s.usable = usableOf s.cnt ↔ s.usable.toNat = s.cnt.toNat - s.cnt.toNat % 3 := by
    rw [← BitVec.toNat_inj, usableOf_toNat]
  rw [hu]
  constructor
  · rintro ⟨⟨hq, -, hl, hb, -⟩, hc, -, hd, -⟩
    obtain ⟨hreq, hmin, -⟩ := hb h
    obtain ⟨ho, hcnt⟩ := hd h
    have hr : s.rngl ≠ 0#2 := by simpa [ho] using hc (by simp [h, busWorkStates])
    exact ⟨by simpa [h] using hq, hl.2 (.inr (.inr h)), hreq, hmin, hcnt, ho, hr⟩
  · rintro ⟨hq, hl, hb, hmin, hcnt, ho, hr⟩
    have hmax : s.usable.toNat ≤ 255 := Nat.le_of_lt_succ s.usable.isLt
    simpa [SdfrInv, TableInvariant, CommandInvariant, busWorkStates, seqCode, burstBytes, h, hq, hl, hb, ho, hr]
      using And.intro (And.intro hmin hmax) hcnt

/-! ### The operations -/

/-- A response of at most 256 payload words, emitted with the lock released and the bus at rest (R90, R36). -/
theorem sdfrInv_emit {s : State} (k : Status) {p : List Word} (hp : p.length ≤ 256) (hl : s.lock = false)
    (hb : s.breq = none) (ha : s.bresp = none) : SdfrInv (emit k p s) := by
  rw [sdfrInv_iff_of_resp rfl]
  exact ⟨List.cons_ne_nil _ _, Nat.succ_le_succ hp, hl, hb, ha⟩

theorem sdfrInv_raise {s : State} (k : Status) (ha : s.bresp = none) : SdfrInv (raise k s) :=
  sdfrInv_emit k (Nat.zero_le _) rfl rfl ha

theorem sdfrInv_requestLock {s : State} (hq : s.rspq = []) (hb : s.breq = none) (ha : s.bresp = none)
    (hc : FifoCommandLatched s) : SdfrInv (requestLock s) := by
  rw [sdfrInv_iff_of_lockWait rfl]
  exact ⟨hq, rfl, hb, ha, hc⟩

theorem sdfrInv_resetStep (s : State) : SdfrInv (resetStep s) :=
  (sdfrInv_iff_of_idle rfl).2 ⟨rfl, rfl, rfl, rfl⟩

theorem sdfrInv_takeWord {s : State} (hs : s.st = .resp) (h : SdfrInv s) : SdfrInv (takeWord s) := by
  obtain ⟨-, hn, hl, hb, ha⟩ := (sdfrInv_iff_of_resp hs).1 h
  by_cases ht : s.rspq.tail = []
  · rw [sdfrInv_iff_of_idle (by simp [ht])]
    exact ⟨ht, hl, hb, ha⟩
  · rw [sdfrInv_iff_of_resp (by simp [ht])]
    refine ⟨ht, ?_, hl, hb, ha⟩
    rw [takeWord_rspq, List.length_tail]
    omega

/-- A whole burst decodes to at most 255 values, so its batch fits the queue (R36, R151). -/
theorem length_batch_le (cnt u : BitVec 8) (c : BitVec 2) {bytes : List Byte}
    (h : bytes.length = burstBytes u) : (batch cnt u c bytes).length ≤ 256 := by
  have hu := u.isLt
  have hn := length_entryValues c u.toNat bytes h
  simp only [batch, List.length_cons, List.length_map, hn]
  omega

/-! ### The steps of the block -/

theorem sdfrInv_acceptOf (i : Instr) {s : State} (hs : s.st = .idle) (h : SdfrInv s) : SdfrInv (acceptOf i s) := by
  obtain ⟨hq, hl, hb, ha⟩ := (sdfrInv_iff_of_idle hs).1 h
  rcases acceptOf_cases i s with ⟨p, hp, e⟩ | ⟨k, -, e⟩ | ⟨-, hi, e⟩ <;> rw [e]
  · exact sdfrInv_emit .ok (by omega) hl hb ha
  · exact sdfrInv_raise k ha
  · refine sdfrInv_requestLock hq hb ha ?_
    rcases hi with rfl | ⟨rng, hr, rfl⟩
    · exact .inl rfl
    · exact .inr ⟨rfl, hr⟩

theorem sdfrInv_rejectWord (w : Word) {s : State} (hs : s.st = .idle) (h : SdfrInv s) : SdfrInv (rejectWord w s) := by
  obtain ⟨-, -, -, ha⟩ := (sdfrInv_iff_of_idle hs).1 h
  exact sdfrInv_raise .illegalCmd ha

theorem sdfrInv_proceed {s : State} (hs : s.st ≠ .idle) (h : SdfrInv s) : SdfrInv (proceed s) := by
  rcases proceed_cases s hs with e | ⟨hw, -, e⟩ | ⟨-, c, -, -, e⟩ | ⟨-, c, -, -, -, e⟩ | ⟨hw, c, -, ho, hc, e⟩ |
    ⟨-, bytes, -, hn, e⟩ | ⟨-, -, e⟩ | ⟨hw, -, e⟩ <;> rw [e]
  · exact h
  · obtain ⟨hq, hl, -, -, hcmd⟩ := (sdfrInv_iff_of_lockWait hw).1 h
    exact (sdfrInv_iff_of_cntWait rfl).2 ⟨hq, hl, rfl, hcmd⟩
  · exact sdfrInv_emit .ok (by simp) rfl rfl rfl
  · exact sdfrInv_emit .ok (by simp) rfl rfl rfl
  · obtain ⟨hq, hl, -, hcmd⟩ := (sdfrInv_iff_of_cntWait hw).1 h
    obtain ⟨ho4, hr⟩ := hcmd.resolve_left ho
    have hu : 3 ≤ (usableOf c).toNat := by
      rw [usableOf_toNat]
      omega
    exact (sdfrInv_iff_of_burstWait rfl).2 ⟨hq, hl, rfl, hu, rfl, ho4, hr⟩
  · have hd : burstData (writeBuf bytes (consumeAnswer s)) = bytes := burstData_writeBuf hn
    exact sdfrInv_emit .ok (length_batch_le _ _ _ (by rw [hd]; exact hn)) rfl rfl rfl
  · exact sdfrInv_raise .busError rfl
  · exact sdfrInv_takeWord hw h

theorem sdfrInv_sdfrStep {s t : State} (h : SdfrInv s) (hst : sdfrStep s = .next t) : SdfrInv t := by
  rcases sdfrStep_cases s with ⟨-, e⟩ | ⟨-, -, -, e⟩ | ⟨-, hi, -, i, -, e⟩ | ⟨-, hi, -, -, e⟩ | ⟨-, hb, e⟩ <;>
    rw [e] at hst <;> cases hst
  · exact sdfrInv_resetStep s
  · exact h
  · exact sdfrInv_acceptOf i hi h
  · exact sdfrInv_rejectWord s.cmdWord hi h
  · exact sdfrInv_proceed hb h

/-! ### The moves of the other agents -/

/-- An answer stands on the port only for a pending request, and one that finds none is dropped (R211). -/
theorem sdfrInv_answerArrives (a : BusAnswer) {s : State} (h : SdfrInv s) : SdfrInv (answerArrives a s) := by
  by_cases hb : s.breq = none
  · rw [answerArrives_ignored a hb]
    exact h
  · rw [answerArrives_pending a hb]
    obtain ⟨htable, hcmd, hcnt, hburst, -⟩ := h
    exact ⟨htable, hcmd, hcnt, hburst, fun _ => hb⟩

theorem sdfrInv_agentMove {s t : State} {e : Event} (h : SdfrInv s) (hst : agentMove e s = .next t) : SdfrInv t := by
  cases e with
  | sdfr => exact sdfrInv_sdfrStep h hst
  | answer a =>
    cases hst
    exact sdfrInv_answerArrives a h
  | _ =>
    cases hst
    exact h

theorem sdfrInv_reset : SdfrInv State.reset :=
  (sdfrInv_iff_of_idle rfl).2 ⟨rfl, rfl, rfl, rfl⟩

/-- Taking a move off the agenda changes nothing the invariant speaks of, so the step lemma is the two kinds of move. -/
theorem sdfrInv_step {s t : State} (h : SdfrInv s) (hst : step s = .next t) : SdfrInv t := by
  rcases step_cases hst with ⟨-, e⟩ | ⟨e, rest, -, -, hm⟩
  · exact sdfrInv_sdfrStep (s := { s with agenda := s.agenda.tail }) h e
  · exact sdfrInv_agentMove (s := { s with agenda := rest }) h hm

/-- The invariant, packaged once for every run of the machine. -/
theorem sdfrInv_of_reachable {s : State} (h : Reachable s) : SdfrInv s := by
  induction h with
  | reset => exact sdfrInv_reset
  | agents s moves _ ih => exact ih
  | step s t _ hst ih => exact sdfrInv_step ih hst

/-! ### The outputs -/

/-- The pending request of a state of the invariant is one of R59's two reads, of 1 to 765 bytes. -/
theorem request_of_sdfrInv {s : State} {q : BusRequest} (h : SdfrInv s) (hq : s.breq = some q) :
    1 ≤ q.len.toNat ∧ q.len.toNat ≤ 765 ∧ (q.addr = 0x05#7 ∨ q.addr = 0x11#7) := by
  have hwait : s.st = .cntWait ∨ s.st = .burstWait := by
    obtain ⟨⟨-, hb, -⟩, -⟩ := h
    exact hb.1 (by simp [hq])
  rcases hwait with hs | hs
  · obtain ⟨-, -, hb, -⟩ := (sdfrInv_iff_of_cntWait hs).1 h
    obtain rfl : _ = q := Option.some.inj (hb.symm.trans hq)
    decide
  · obtain ⟨-, -, hb, hn, -⟩ := (sdfrInv_iff_of_burstWait hs).1 h
    obtain rfl : _ = q := Option.some.inj (hb.symm.trans hq)
    have hu := s.usable.isLt
    have hlen : (BitVec.ofNat 10 (burstBytes s.usable)).toNat = 3 * s.usable.toNat := by
      rw [BitVec.toNat_ofNat, burstBytes, Nat.mod_eq_of_lt (by omega)]
    rw [hlen]
    exact ⟨by omega, by omega, .inr rfl⟩

theorem rspWord_defined_iff {s : State} (h : SdfrInv s) : rspValid s = true ↔ ∃ w, rspWord s = some w := by
  by_cases hs : s.st = .resp
  · obtain ⟨hq, -⟩ := (sdfrInv_iff_of_resp hs).1 h
    obtain ⟨w, rest, hw⟩ := List.exists_cons_of_ne_nil hq
    simp [rspValid, rspWord, hs, hw]
  · simp [rspValid, rspWord, hs]

end Sys2Proof.Machine
end

section
/-! SUPPORT. What a step of the machine can write (R32 to R35), that a busy block does not read the command port (R22),
how a response leaves the queue (R158), and which command a table word is (R88). -/

namespace Sys2Proof.Machine

open Sys2Proof.Safety

/-! ### The registers a step writes -/

theorem acceptOf_keeps_count_and_buffer (i : Instr) (s : State) :
    (acceptOf i s).cnt = s.cnt ∧ (acceptOf i s).usable = s.usable ∧ (acceptOf i s).buf = s.buf := by
  rcases acceptOf_cases i s with ⟨p, -, e⟩ | ⟨k, -, e⟩ | ⟨-, -, e⟩ <;> rw [e] <;> exact ⟨rfl, rfl, rfl⟩

/-- The latched command, as one value: what R32 says changes together. -/
def latchedCommand (s : State) : BitVec 4 × BitVec 2 × BitVec 24 := (s.opl, s.rngl, s.datal)

theorem proceed_keeps_latchedCommand {s : State} (hs : s.st ≠ .idle) :
    latchedCommand (proceed s) = latchedCommand s := by
  rcases proceed_cases s hs with e | ⟨-, -, e⟩ | ⟨-, c, -, -, e⟩ | ⟨-, c, -, -, -, e⟩ | ⟨-, c, -, -, -, e⟩ |
    ⟨-, bytes, -, -, e⟩ | ⟨-, -, e⟩ | ⟨-, -, e⟩ <;> rw [e] <;> rfl

/-- A command in progress writes `CNT` and `USABLE` when its count arrives and `BUF` when its burst arrives, and at
no other time (R33 to R35). -/
theorem proceed_count_and_buffer {s : State} (hs : s.st ≠ .idle) :
    ((proceed s).cnt = s.cnt ∧ (proceed s).usable = s.usable ∧ (proceed s).buf = s.buf) ∨
    (s.st = .cntWait ∧ s.bresp = some (.ok [(proceed s).cnt]) ∧ (proceed s).buf = s.buf ∧
      ((proceed s).usable = s.usable ∨ (s.opl ≠ 3#4 ∧ (proceed s).usable = usableOf (proceed s).cnt))) ∨
    (s.st = .burstWait ∧ (∃ bytes, s.bresp = some (.ok bytes) ∧ bytes.length = burstBytes s.usable) ∧
      (proceed s).cnt = s.cnt ∧ (proceed s).usable = s.usable) := by
  rcases proceed_cases s hs with e | ⟨-, -, e⟩ | ⟨hw, c, hb, -, e⟩ | ⟨hw, c, hb, ho, -, e⟩ | ⟨hw, c, hb, ho, -, e⟩ |
    ⟨hw, bytes, hb, hn, e⟩ | ⟨-, -, e⟩ | ⟨-, -, e⟩ <;> rw [e]
  · exact .inl ⟨rfl, rfl, rfl⟩
  · exact .inl ⟨rfl, rfl, rfl⟩
  · exact .inr (.inl ⟨hw, hb, rfl, .inl rfl⟩)
  · exact .inr (.inl ⟨hw, hb, rfl, .inr ⟨ho, rfl⟩⟩)
  · exact .inr (.inl ⟨hw, hb, rfl, .inr ⟨ho, rfl⟩⟩)
  · exact .inr (.inr ⟨hw, ⟨bytes, hb, hn⟩, rfl, rfl⟩)
  · exact .inl ⟨rfl, rfl, rfl⟩
  · exact .inl ⟨rfl, rfl, rfl⟩

/-- Who can write a register of the block: nobody, reset, an accept step (not the count or the buffer), or the command
in progress. -/
theorem step_register_cases {s t : State} (hst : step s = .next t) :
    (latchedCommand t = latchedCommand s ∧ t.cnt = s.cnt ∧ t.usable = s.usable ∧ t.buf = s.buf) ∨
    (SdfrMoves s ∧ s.rst = true) ∨
    (SdfrMoves s ∧ s.st = .idle ∧ s.cmdValid = true ∧ t.cnt = s.cnt ∧ t.usable = s.usable ∧ t.buf = s.buf) ∨
    (SdfrMoves s ∧ s.st ≠ .idle ∧ t = proceed { s with agenda := s.agenda.tail }) := by
  rcases step_cases hst with ⟨hm, hs⟩ | ⟨e, rest, -, he, hmove⟩
  · rcases sdfrStep_cases { s with agenda := s.agenda.tail } with
      ⟨hr, e⟩ | ⟨-, -, -, e⟩ | ⟨-, hi, hv, i, -, e⟩ | ⟨-, hi, hv, -, e⟩ | ⟨-, hb, e⟩ <;> rw [e] at hs <;> cases hs
    · exact .inr (.inl ⟨hm, hr⟩)
    · exact .inl ⟨rfl, rfl, rfl, rfl⟩
    · exact .inr (.inr (.inl ⟨hm, hi, hv, acceptOf_keeps_count_and_buffer i _⟩))
    · exact .inr (.inr (.inl ⟨hm, hi, hv, rfl, rfl, rfl⟩))
    · exact .inr (.inr (.inr ⟨hm, hb, rfl⟩))
  · obtain ⟨-, ho, hr, hd, hc, hu, hbuf, -⟩ := agentMove_keeps_registers he hmove
    exact .inl ⟨by simp [latchedCommand, ho, hr, hd], hc, hu, hbuf⟩

/-! ### The command port -/

/-- The state with `cmd_valid` and `cmd_word` at other levels (R21). -/
def setCommandPort (v : Bool) (w : Word) (s : State) : State := { s with cmdValid := v, cmdWord := w }

theorem countArrived_setCommandPort (v : Bool) (w : Word) (c : Byte) (s : State) :
    countArrived c (setCommandPort v w s) = setCommandPort v w (countArrived c s) := by
  by_cases ho : s.opl = 3#4
  · rw [countArrived_fifocnt ho, countArrived_fifocnt (s := setCommandPort v w s) ho]
    rfl
  · by_cases hc : c.toNat < 3
    · rw [countArrived_drain_empty ho hc, countArrived_drain_empty (s := setCommandPort v w s) ho hc]
      rfl
    · have hc' : 3 ≤ c.toNat := Nat.le_of_not_lt hc
      rw [countArrived_drain_burst ho hc', countArrived_drain_burst (s := setCommandPort v w s) ho hc']
      rfl

theorem proceed_setCommandPort (v : Bool) (w : Word) {s : State} (hs : s.st ≠ .idle) :
    proceed (setCommandPort v w s) = setCommandPort v w (proceed s) := by
  cases h : s.st with
  | idle => exact absurd h hs
  | lockWait =>
    rw [proceed_lockWait h, proceed_lockWait (s := setCommandPort v w s) h]
    cases hg : s.busLockGnt with
    | false => rw [lockWaitStep_waits hg, lockWaitStep_waits (s := setCommandPort v w s) hg]
    | true =>
      rw [lockWaitStep_granted hg, lockWaitStep_granted (s := setCommandPort v w s) hg]
      rfl
  | cntWait =>
    rw [proceed_cntWait h, proceed_cntWait (s := setCommandPort v w s) h]
    rcases cntWaitStep_cases s with ⟨hb, e⟩ | ⟨c, hb, e⟩ | ⟨a, hb, ha, e⟩ <;> rw [e]
    · exact cntWaitStep_waits (s := setCommandPort v w s) hb
    · rw [cntWaitStep_count (s := setCommandPort v w s) hb, ← countArrived_setCommandPort]
      rfl
    · exact cntWaitStep_error (s := setCommandPort v w s) hb ha
  | burstWait =>
    rw [proceed_burstWait h, proceed_burstWait (s := setCommandPort v w s) h]
    rcases burstWaitStep_cases s with ⟨hb, e⟩ | ⟨bytes, hb, hn, e⟩ | ⟨a, hb, ha, e⟩ <;> rw [e]
    · exact burstWaitStep_waits (s := setCommandPort v w s) hb
    · exact burstWaitStep_batch (s := setCommandPort v w s) hb hn
    · exact burstWaitStep_error (s := setCommandPort v w s) hb ha
  | resp =>
    rw [proceed_resp h, proceed_resp (s := setCommandPort v w s) h]
    cases hr : s.rspReady with
    | false => rw [respStep_waits hr, respStep_waits (s := setCommandPort v w s) hr]
    | true =>
      rw [respStep_takes hr, respStep_takes (s := setCommandPort v w s) hr]
      rfl

/-! ### Reset -/

theorem sdfrStep_reset {s : State} (hr : s.rst = true) : sdfrStep s = .next (resetStep s) := by
  simp [sdfrStep, hr]

/-! ### The response queue -/

theorem step_takes_word {s : State} (ha : s.agenda = []) (hr : s.rst = false) (hs : s.st = .resp)
    (hready : s.rspReady = true) : step s = .next (takeWord s) := by
  rw [step_of_no_agenda ha, sdfrStep_busy hr (by simp [hs]), proceed_resp hs, respStep_takes hready]

/-- The state after `k` words of a response have been taken (R158). -/
def takeWords (k : Nat) (s : State) : State :=
  { s with rspq := s.rspq.drop k, st := if s.rspq.drop k = [] then .idle else .resp }

theorem takeWords_takeWord (k : Nat) (s : State) : takeWords k (takeWord s) = takeWords (k + 1) s := by
  simp [takeWords, takeWord]

theorem takeWords_of_lt {k : Nat} {s : State} (hs : s.st = .resp) (hk : k < s.rspq.length) :
    takeWords k s = { s with rspq := s.rspq.drop k } := by
  have hne : s.rspq.drop k ≠ [] := by simpa using hk
  rw [takeWords, if_neg hne, ← hs]

theorem takeWords_length (s : State) : takeWords s.rspq.length s = { s with rspq := [], st := .idle } := by
  simp [takeWords]

/-- With `rsp_ready` held, `k` steps take `k` words, as long as there are so many. -/
theorem run_takes_words (k : Nat) {s : State} (ha : s.agenda = []) (hr : s.rst = false) (hs : s.st = .resp)
    (hready : s.rspReady = true) (hq : s.rspq ≠ []) (hk : k ≤ s.rspq.length) :
    Host.Core.run Sys2Proof.core k s = .next (takeWords k s) := by
  induction k generalizing s with
  | zero => rw [run_zero, takeWords_of_lt hs (List.length_pos_iff.2 hq), List.drop_zero]
  | succ k ih =>
    rw [run_succ k (step_takes_word ha hr hs hready), ← takeWords_takeWord]
    by_cases ht : s.rspq.tail = []
    · have hk0 : k = 0 := by
        have := congrArg List.length ht
        simp only [List.length_tail, List.length_nil] at this
        omega
      rw [hk0, run_zero]
      simp [takeWords, takeWord]
    · refine ih ha hr ?_ hready ht ?_
      · rw [takeWord_st, if_neg ht]
      · rw [takeWord_rspq, List.length_tail]
        omega

/-! ### The table word -/

/-- A table word that decodes is the 32-bit word the decoder accepts (R88). -/
theorem decode_of_decodeTableWord {nbits w : Nat} {i : Instr} (h : decodeTableWord nbits w = some i) :
    decode (BitVec.ofNat 32 (w % 2 ^ nbits)) = .ok i := by
  unfold decodeTableWord at h
  split at h
  · cases hd : decode (BitVec.ofNat 32 (w % 2 ^ nbits)) with
    | ok j =>
      rw [hd] at h
      rw [Option.some.inj h]
    | error e =>
      rw [hd] at h
      cases h
  · cases h

end Sys2Proof.Machine
end

section
/-! THE OBLIGATIONS of 10_state.md, each from the lemmas above. -/

namespace Sys2Proof.Proofs

open Sys2Proof.Machine Sys2Proof.Safety

/-- Settles O38, from the step lemma `sdfrInv_step`. -/
theorem everyStepKeepsTheInvariant : Obligations.EveryStepKeepsTheInvariant := by
  unfold Obligations.EveryStepKeepsTheInvariant
  intro s t h hst
  exact sdfrInv_step h hst

/-- Settles O34, from the run that takes the words one by one. -/
theorem responseIsDeliveredInOrder : Obligations.ResponseIsDeliveredInOrder := by
  unfold Obligations.ResponseIsDeliveredInOrder
  intro s ha hr hs hready hq
  constructor
  · intro k hk
    rw [run_takes_words k ha hr hs hready hq (Nat.le_of_lt hk), takeWords_of_lt hs hk]
  · rw [run_takes_words _ ha hr hs hready hq (Nat.le_refl _), takeWords_length]

/-- Settles O39, as the first half of the invariant of every reachable state. -/
theorem reachableStatesMeetTheTableInvariant : Obligations.ReachableStatesMeetTheTableInvariant := by
  unfold Obligations.ReachableStatesMeetTheTableInvariant
  intro s h
  exact (sdfrInv_of_reachable h).1

/-- Settles O47: reset and the command in progress both leave the command port as it is and do not read it. -/
theorem busyBlockIgnoresTheCommandPort : Obligations.BusyBlockIgnoresTheCommandPort := by
  unfold Obligations.BusyBlockIgnoresTheCommandPort
  intro s v w hs
  change ∃ t, sdfrStep s = .next t ∧ sdfrStep (setCommandPort v w s) = .next (setCommandPort v w t)
  by_cases hr : s.rst = true
  · exact ⟨resetStep s, sdfrStep_reset hr, sdfrStep_reset (s := setCommandPort v w s) hr⟩
  · replace hr : s.rst = false := by simpa using hr
    refine ⟨proceed s, sdfrStep_busy hr hs, ?_⟩
    rw [sdfrStep_busy (s := setCommandPort v w s) hr hs, proceed_setCommandPort v w hs]

/-- Settles O48: of the writers in `step_register_cases` only reset and the accept step change the latched command. -/
theorem latchedCommandChangesOnlyAtAccept : Obligations.LatchedCommandChangesOnlyAtAccept := by
  unfold Obligations.LatchedCommandChangesOnlyAtAccept
  intro s t hst hchange
  have hne : latchedCommand t ≠ latchedCommand s := fun h => by
    simp only [latchedCommand, Prod.mk.injEq] at h
    tauto
  rcases step_register_cases hst with ⟨hl, -⟩ | ⟨hm, hr⟩ | ⟨hm, hi, hv, -⟩ | ⟨-, hb, rfl⟩
  · exact absurd hl hne
  · exact ⟨hm, .inl hr⟩
  · exact ⟨hm, .inr ⟨hi, hv⟩⟩
  · exact absurd (proceed_keeps_latchedCommand (s := { s with agenda := s.agenda.tail }) hb) hne

/-- Settles O49: the writers of `step_register_cases`, and for the command in progress `proceed_count_and_buffer`. -/
theorem countAndBufferChangeOnlyOnTheirAnswers : Obligations.CountAndBufferChangeOnlyOnTheirAnswers := by
  unfold Obligations.CountAndBufferChangeOnlyOnTheirAnswers
  intro s t hst
  rcases step_register_cases hst with ⟨-, hc, hu, hbuf⟩ | ⟨hm, hr⟩ | ⟨-, -, -, hc, hu, hbuf⟩ | ⟨hm, hb, rfl⟩
  · exact ⟨(absurd hc ·), (absurd hu ·), (absurd hbuf ·)⟩
  · exact ⟨fun _ => ⟨hm, .inl hr⟩, fun _ => ⟨hm, .inl hr⟩, fun _ => ⟨hm, .inl hr⟩⟩
  · exact ⟨(absurd hc ·), (absurd hu ·), (absurd hbuf ·)⟩
  · rcases proceed_count_and_buffer (s := { s with agenda := s.agenda.tail }) hb with
      ⟨hc, hu, hbuf⟩ | ⟨hw, hans, hbuf, hu⟩ | ⟨hw, hans, hc, hu⟩
    · exact ⟨(absurd hc ·), (absurd hu ·), (absurd hbuf ·)⟩
    · refine ⟨fun _ => ⟨hm, .inr ⟨hw, hans⟩⟩, fun hne => ⟨hm, .inr ?_⟩, (absurd hbuf ·)⟩
      obtain ⟨ho, hu⟩ := hu.resolve_left hne
      exact ⟨hw, ho, hans, by rw [hu, usableOf_toNat]⟩
    · exact ⟨(absurd hc ·), (absurd hu ·), fun _ => ⟨hm, .inr ⟨hw, hans⟩⟩⟩

/-- Settles O26: in `IDLE` the word is accepted, and elsewhere the step and `exec` are both the command in progress. -/
theorem stepRunsTheDecodedCommand : Obligations.StepRunsTheDecodedCommand := by
  unfold Obligations.StepRunsTheDecodedCommand
  intro s i ha hr hv hd
  rw [step_of_no_agenda ha]
  by_cases hs : s.st = .idle
  · rw [sdfrStep_idle hr hs, if_pos hv, acceptWord_ok hd]
  · rw [sdfrStep_busy hr hs, exec_busy i hs]

/-- Settles O27, as the case of O26 with the word placed at the port. -/
theorem fetchWordIsRunNext : Obligations.FetchWordIsRunNext := by
  unfold Obligations.FetchWordIsRunNext
  intro s w i h
  exact stepRunsTheDecodedCommand (s.withFetchWord 32 w) i rfl rfl rfl (decode_of_decodeTableWord h)

/-- Settles O37: the registers of R45 by definition, the invariant as the base case of `sdfrInv_of_reachable`. -/
theorem resetStateKeepsTheInvariant : Obligations.ResetStateKeepsTheInvariant := by
  unfold Obligations.ResetStateKeepsTheInvariant
  exact ⟨rfl, rfl, rfl, rfl, sdfrInv_reset⟩

/-- Settles O42: the head of the agenda moves, and each agent's move is its own row of `agentMove`. -/
theorem otherAgentsChangeOnlyTheirSignals : Obligations.OtherAgentsChangeOnlyTheirSignals := by
  unfold Obligations.OtherAgentsChangeOnlyTheirSignals
  intro s e rest ha
  rw [step_of_agenda ha]
  refine ⟨?offer, ?withdraw, ?hostReady, ?controllerReady, ?grant, ?reset, ?answer, ?lateAnswer⟩
  case answer =>
    rintro a rfl hb
    exact congrArg Host.Outcome.next (answerArrives_pending (s := { s with agenda := rest }) a hb)
  case lateAnswer =>
    rintro a rfl hb
    exact congrArg Host.Outcome.next (answerArrives_ignored (s := { s with agenda := rest }) a hb)
  case withdraw =>
    rintro rfl
    rfl
  all_goals
    rintro level rfl
    rfl

/-- Settles O50: the queue is not empty in `RESP`, the request is one of two, and `IDLE` holds neither lock nor
request. -/
theorem outputsAreDefinedWhenValid : Obligations.OutputsAreDefinedWhenValid := by
  unfold Obligations.OutputsAreDefinedWhenValid
  intro s h
  refine ⟨rspWord_defined_iff h, fun hv => ?_, fun hc => ?_⟩
  · obtain ⟨q, hq⟩ := Option.isSome_iff_exists.1 hv
    obtain ⟨hmin, hmax, haddr⟩ := request_of_sdfrInv h hq
    exact ⟨q.len, by simp [breqLen, hq], hmin, hmax, by simpa [breqAddr, hq] using haddr⟩
  · have hs : s.st = .idle := of_decide_eq_true hc
    obtain ⟨-, hl, hb, -⟩ := (sdfrInv_iff_of_idle hs).1 h
    exact ⟨by simp [rspValid, hs], hl, by simp [breqValid, hb]⟩

end Sys2Proof.Proofs
end

section
/-! SUPPORT. The bus of 20_memory.md: which step issues a request and which one (R59), which agent can move the grant
(R66), and the wire frame of a read (R57). -/

namespace Sys2Proof.Machine

open Sys2Proof.Safety

/-! ### The bus request -/

theorem acceptOf_issues_no_request (i : Instr) (s : State) :
    (acceptOf i s).breq = none ∨ (acceptOf i s).breq = s.breq := by
  rcases acceptOf_cases i s with ⟨p, -, e⟩ | ⟨k, -, e⟩ | ⟨-, -, e⟩ <;> rw [e]
  · exact .inr rfl
  · exact .inl rfl
  · exact .inr rfl

/-- What a command in progress can do to `BREQ`: drop it, keep it, issue the count read under the grant (R142), or issue
the burst (R148). -/
theorem proceed_request_cases {s : State} (hs : s.st ≠ .idle) :
    ((proceed s).breq = none ∨ (proceed s).breq = s.breq) ∨
    (s.st = .lockWait ∧ s.busLockGnt = true ∧ (proceed s).breq = some ⟨0x05#7, 1#10⟩) ∨
    (s.st = .cntWait ∧ ∃ c : Byte, 3 ≤ c.toNat ∧
      (proceed s).breq = some ⟨0x11#7, BitVec.ofNat 10 (burstBytes (usableOf c))⟩) := by
  rcases proceed_cases s hs with e | ⟨hw, hg, e⟩ | ⟨-, c, -, -, e⟩ | ⟨-, c, -, -, -, e⟩ | ⟨hw, c, -, -, hc, e⟩ |
    ⟨-, bytes, -, -, e⟩ | ⟨-, -, e⟩ | ⟨-, -, e⟩ <;> rw [e]
  · exact .inl (.inr rfl)
  · exact .inr (.inl ⟨hw, hg, rfl⟩)
  · exact .inl (.inl rfl)
  · exact .inl (.inl rfl)
  · exact .inr (.inr ⟨hw, c, hc, rfl⟩)
  · exact .inl (.inl rfl)
  · exact .inl (.inl rfl)
  · exact .inl (.inr rfl)

/-- What the sequencer's step can do to `BREQ`: reset and the accept step issue nothing. -/
theorem sdfrStep_request_cases {s t : State} (h : sdfrStep s = .next t) :
    (t.breq = none ∨ t.breq = s.breq) ∨
    (s.st = .lockWait ∧ s.busLockGnt = true ∧ t.breq = some ⟨0x05#7, 1#10⟩) ∨
    (s.st = .cntWait ∧ ∃ c : Byte, 3 ≤ c.toNat ∧
      t.breq = some ⟨0x11#7, BitVec.ofNat 10 (burstBytes (usableOf c))⟩) := by
  rcases sdfrStep_cases s with ⟨-, e⟩ | ⟨-, -, -, e⟩ | ⟨-, -, -, i, -, e⟩ | ⟨-, -, -, -, e⟩ | ⟨-, hb, e⟩ <;>
    rw [e] at h <;> cases h
  · exact .inl (.inl rfl)
  · exact .inl (.inr rfl)
  · exact .inl (acceptOf_issues_no_request i s)
  · exact .inl (.inl rfl)
  · exact proceed_request_cases hb

/-- `3·USABLE` fits the 10 bits of `breq_len` (R25). -/
theorem toNat_burstLength (u : BitVec 8) : (BitVec.ofNat 10 (burstBytes u)).toNat = 3 * u.toNat := by
  have hu := u.isLt
  rw [BitVec.toNat_ofNat, burstBytes, Nat.mod_eq_of_lt (by omega)]

/-- The length of a burst is one of R59's (R146, R148). -/
theorem exists_usable_of_burstLength {c : Byte} (hc : 3 ≤ c.toNat) :
    ∃ u, (BitVec.ofNat 10 (burstBytes (usableOf c))).toNat = 3 * u ∧ u % 3 = 0 ∧ 3 ≤ u ∧ u ≤ 255 := by
  have hlt := c.isLt
  refine ⟨c.toNat - c.toNat % 3, ?_, ?_, ?_, ?_⟩
  · rw [toNat_burstLength, usableOf_toNat]
  all_goals omega

/-- A decode command ends in `RESP` and asks for neither the bus nor the lock: of the three ends of an accept step, the
lock request belongs to the FIFO commands (R142). -/
theorem acceptOf_decode_command {i : Instr}
    (hi : (∃ rng b0 b1 b2, i = .decaxis rng b0 b1 b2) ∨ (∃ hi lo, i = .dectemp hi lo)) (s : State) :
    ((acceptOf i s).lock = true → s.lock = true) ∧ (acceptOf i s).st = .resp := by
  rcases acceptOf_cases i s with ⟨p, -, e⟩ | ⟨k, -, e⟩ | ⟨-, hfifo, -⟩
  · rw [e]
    exact ⟨id, rfl⟩
  · rw [e]
    exact ⟨fun hl => absurd hl Bool.false_ne_true, rfl⟩
  · rcases hi with ⟨rng, b0, b1, b2, rfl⟩ | ⟨hi, lo, rfl⟩ <;> simp at hfifo

/-! ### The lock and its grant -/

theorem lock_of_request {s : State} (h : SdfrInv s) (hq : s.breq ≠ none) : s.lock = true := by
  obtain ⟨⟨-, hb, hl, -⟩, -⟩ := h
  exact hl.2 (.inr (hb.1 hq))

theorem acceptOf_busLockGnt (i : Instr) (s : State) : (acceptOf i s).busLockGnt = s.busLockGnt := by
  rcases acceptOf_cases i s with ⟨p, -, e⟩ | ⟨k, -, e⟩ | ⟨-, -, e⟩ <;> rw [e] <;> rfl

theorem proceed_busLockGnt {s : State} (hs : s.st ≠ .idle) : (proceed s).busLockGnt = s.busLockGnt := by
  rcases proceed_cases s hs with e | ⟨-, -, e⟩ | ⟨-, c, -, -, e⟩ | ⟨-, c, -, -, -, e⟩ | ⟨-, c, -, -, -, e⟩ |
    ⟨-, bytes, -, -, e⟩ | ⟨-, -, e⟩ | ⟨-, -, e⟩ <;> rw [e] <;> rfl

/-- The grant is an input port: no step of the block moves it (R28). -/
theorem sdfrStep_busLockGnt {s t : State} (h : sdfrStep s = .next t) : t.busLockGnt = s.busLockGnt := by
  rcases sdfrStep_cases s with ⟨-, e⟩ | ⟨-, -, -, e⟩ | ⟨-, -, -, i, -, e⟩ | ⟨-, -, -, -, e⟩ | ⟨-, hb, e⟩ <;>
    rw [e] at h <;> cases h
  · rfl
  · rfl
  · exact acceptOf_busLockGnt i s
  · rfl
  · exact proceed_busLockGnt hb

/-- A request pending after the block's step was pending before it, and so granted, or it is the count read, which waits
for the grant (R142): the burst follows on a count read, so under the same grant (R148). -/
theorem busLockGnt_of_request_after_sdfrStep {s t : State} (hinv : SdfrInv s) (hgrant : BusUseGranted s)
    (hst : sdfrStep s = .next t) (hreq : t.breq ≠ none) : t.busLockGnt = true := by
  rw [sdfrStep_busLockGnt hst]
  rcases sdfrStep_request_cases hst with (hnone | hsame) | ⟨-, hg, -⟩ | ⟨hw, -⟩
  · exact absurd hnone hreq
  · exact (hgrant (hsame ▸ hreq)).2
  · exact hg
  · obtain ⟨-, -, hb, -⟩ := (sdfrInv_iff_of_cntWait hw).1 hinv
    exact (hgrant (by simp [hb])).2

/-- The only other agent's move that reaches the grant is the device controller's, and one that conforms does not
withdraw it while the lock is held (R66). -/
theorem busLockGnt_kept_of_conforms {s t : State} {e : Event} (he : e ≠ .sdfr) (hc : conforms e s = true)
    (hm : agentMove e s = .next t) (hl : s.lock = true) (hg : s.busLockGnt = true) : t.busLockGnt = true := by
  cases e with
  | sdfr => exact absurd rfl he
  | grant level =>
    cases hm
    simpa [conforms, hl, hg] using hc
  | answer a =>
    cases hm
    by_cases hb : s.breq = none
    · rw [answerArrives_ignored a hb]
      exact hg
    · rw [answerArrives_pending a hb]
      exact hg
  | _ =>
    cases hm
    exact hg

/-! ### The wire frame -/

/-- The first byte of a read's frame, in plain arithmetic (R57). -/
theorem addr_append_readBit (addr : BitVec 7) : addr ++ Config.readBit = BitVec.ofNat 8 (2 * addr.toNat + 1) := by
  have haddr := addr.isLt
  apply BitVec.eq_of_toNat_eq
  rw [toNat_append_eq_add, BitVec.toNat_ofNat, Config.readBit, BitVec.toNat_ofNat]
  omega

theorem readFrame_eq (addr : BitVec 7) (n : Nat) :
    readFrame addr n = BitVec.ofNat 8 (2 * addr.toNat + 1) :: List.replicate n 0xAA#8 := by
  rw [readFrame, addr_append_readBit, Config.dummyByte]

theorem pendingFrame_first_byte {s : State} {q : BusRequest} (h : s.breq = some q) :
    (pendingFrame s).map (·.take 1) = some [BitVec.ofNat 8 (2 * q.addr.toNat + 1)] := by
  simp [pendingFrame, h, readFrame_eq]

end Sys2Proof.Machine
end

section
/-! THE OBLIGATIONS of 20_memory.md, each from the lemmas above. -/

namespace Sys2Proof.Proofs

open Sys2Proof.Machine Sys2Proof.Safety

/-- Settles O43: of what `sdfrStep_request_cases` lists, only the count read and the burst are new. -/
theorem onlyTwoKindsOfTransaction : Obligations.OnlyTwoKindsOfTransaction := by
  unfold Obligations.OnlyTwoKindsOfTransaction
  constructor
  · intro s t q hst hq hnew
    refine ⟨rfl, ?_⟩
    rcases step_cases hst with ⟨-, hs⟩ | ⟨e, rest, -, he, hm⟩
    · rcases sdfrStep_request_cases hs with (hnone | hsame) | ⟨-, -, hcount⟩ | ⟨-, c, hc, hburst⟩
      · cases hnone.symm.trans hq
      · exact absurd (hsame.symm.trans hq) hnew
      · cases hcount.symm.trans hq
        exact .inl ⟨rfl, rfl⟩
      · cases hburst.symm.trans hq
        exact .inr ⟨rfl, exists_usable_of_burstLength hc⟩
    · obtain ⟨-, -, -, -, -, -, -, -, -, hsame, -⟩ := agentMove_keeps_registers he hm
      exact absurd (hsame.symm.trans hq) hnew
  · intro i s hi hs
    exact ⟨acceptOf i s, exec_idle i hs, acceptOf_issues_no_request i s, acceptOf_decode_command hi s⟩

/-- Settles O45: the lock is the invariant's; the grant is kept by the block, which issues its first request only under
it, and by every other agent's move that conforms. -/
theorem busIsUsedOnlyUnderAGrantedLock : Obligations.BusIsUsedOnlyUnderAGrantedLock := by
  unfold Obligations.BusIsUsedOnlyUnderAGrantedLock
  intro s t hinv hgrant hconf hst hreq
  refine ⟨lock_of_request (sdfrInv_step hinv hst) hreq, ?_⟩
  rcases step_cases hst with ⟨-, hs⟩ | ⟨e, rest, ha, he, hm⟩
  · exact busLockGnt_of_request_after_sdfrStep (s := { s with agenda := s.agenda.tail }) hinv hgrant hs hreq
  · obtain ⟨-, -, -, -, -, -, -, -, -, hsame, -⟩ := agentMove_keeps_registers he hm
    obtain ⟨hl, hg⟩ := hgrant (hsame ▸ hreq)
    exact busLockGnt_kept_of_conforms he (hconf e rest ha) hm hl hg

/-- Settles O51: the frame by `readFrame_eq`, and the two pending requests by the invariant. -/
theorem readFramesAreAddressThenFiller : Obligations.ReadFramesAreAddressThenFiller := by
  unfold Obligations.ReadFramesAreAddressThenFiller
  refine ⟨readFrame_eq, fun first bytes => rfl, fun s h => ⟨fun hs => ?_, fun hs => ?_⟩⟩
  · obtain ⟨-, -, hb, -⟩ := (sdfrInv_iff_of_cntWait hs).1 h
    exact pendingFrame_first_byte hb
  · obtain ⟨-, -, hb, -⟩ := (sdfrInv_iff_of_burstWait hs).1 h
    exact pendingFrame_first_byte hb

end Sys2Proof.Proofs
end

section
/-! SUPPORT. The decoder and the encoder by fields (R80 to R86): which fields a word must have to be the word of a
command, the same for both; then the lines of the assembler (R92, R93). -/

namespace Sys2Proof

/-! ### The fields of a word -/

/-- `DATA = {B0, B1, B2}` (R80), read from a word. -/
theorem dataField_eq_append (w : Word) : dataField w = b0Field w ++ b1Field w ++ b2Field w := by
  apply BitVec.eq_of_toNat_eq
  rw [dataField_toNat, data_toNat, b0Field_toNat, b1Field_toNat, b2Field_toNat]
  have := w.isLt
  omega

/-- The three operand bytes are determined by `DATA`. -/
theorem byteFields_of_dataField {w : Word} {b0 b1 b2 : Byte} (h : dataField w = b0 ++ b1 ++ b2) :
    b0Field w = b0 ∧ b1Field w = b1 ∧ b2Field w = b2 := by
  have hd : w.toNat / 256 = b0.toNat * 65536 + b1.toNat * 256 + b2.toNat := by
    rw [← dataField_toNat, h, data_toNat]
  have h0 := b0.isLt
  have h1 := b1.isLt
  have h2 := b2.isLt
  refine ⟨BitVec.eq_of_toNat_eq ?_, BitVec.eq_of_toNat_eq ?_, BitVec.eq_of_toNat_eq ?_⟩
  · rw [b0Field_toNat]
    omega
  · rw [b1Field_toNat]
    omega
  · rw [b2Field_toNat]
    omega

/-- The fields of `w` are those of the command `i` (R80 to R84). -/
def HasFields (w : Word) (i : Instr) : Prop :=
  rsvField w = 0#2 ∧ opField w = i.opCode ∧ rngField w = i.rangeCode ∧ dataField w = i.data

/-- A word is its four fields, so it is the word of the command whose fields it has. -/
theorem encode_eq_iff_hasFields (w : Word) (i : Instr) : encode i = w ↔ HasFields w i := by
  unfold HasFields
  simp only [← BitVec.toNat_inj, encode_toNat, rsvField_toNat, opField_toNat, rngField_toNat, dataField_toNat,
    BitVec.toNat_ofNat]
  have hop := i.opCode.isLt
  have hrng := i.rangeCode.isLt
  have hdata := i.data.isLt
  have hw := w.isLt
  omega

theorem hasFields_encode (i : Instr) : HasFields (encode i) i := (encode_eq_iff_hasFields _ i).1 rfl

/-! ### The decoder -/

theorem hasFields_of_decode {w : Word} {i : Instr} (h : decode w = .ok i) : HasFields w i := by
  have hdata := dataField_eq_append w
  unfold decode at h
  split_ifs at h with hrsv hop hop hrng hb2 hop hrng hd hop hd <;> cases h
  · exact ⟨not_not.1 hrsv, hop, rfl, hdata⟩
  · exact ⟨not_not.1 hrsv, hop, not_not.1 hrng, by rw [hdata, not_not.1 hb2, Instr.data]⟩
  · exact ⟨not_not.1 hrsv, hop, not_not.1 hrng, not_not.1 hd⟩
  · exact ⟨not_not.1 hrsv, hop, rfl, not_not.1 hd⟩

theorem decode_of_hasFields {w : Word} {i : Instr} (h : HasFields w i) : decode w = .ok i := by
  obtain ⟨hrsv, hop, hrng, hdata⟩ := h
  cases i with
  | decaxis rng b0 b1 b2 =>
    obtain ⟨h0, h1, h2⟩ := byteFields_of_dataField hdata
    simp [decode, hrsv, hop, hrng, h0, h1, h2, Instr.opCode, Instr.rangeCode]
  | dectemp hi lo =>
    obtain ⟨h0, h1, h2⟩ := byteFields_of_dataField hdata
    simp [decode, hrsv, hop, hrng, h0, h1, h2, Instr.opCode, Instr.rangeCode]
  | fifocnt => simp [decode, hrsv, hop, hrng, hdata, Instr.opCode, Instr.rangeCode, Instr.data]
  | fifodrain rng => simp [decode, hrsv, hop, hrng, hdata, Instr.opCode, Instr.rangeCode, Instr.data]

/-- The decoder reads `i` from exactly the words that have the fields of `i`. -/
theorem decode_eq_ok_iff_hasFields (w : Word) (i : Instr) : decode w = .ok i ↔ HasFields w i :=
  ⟨hasFields_of_decode, decode_of_hasFields⟩

/-- Decoding is the inverse of encoding, word by word and command by command. -/
theorem decode_eq_ok_iff_encode_eq (w : Word) (i : Instr) : decode w = .ok i ↔ encode i = w :=
  (decode_eq_ok_iff_hasFields w i).trans (encode_eq_iff_hasFields w i).symm

@[simp] theorem decode_encode (i : Instr) : decode (encode i) = .ok i := (decode_eq_ok_iff_encode_eq _ i).2 rfl

/-! ### The legal words -/

/-- R86 on the fields. -/
theorem legalWord_iff_fields (w : Word) :
    Rule.legalWord w ↔ rsvField w = 0#2 ∧
      (opField w = 1#4 ∨ (opField w = 2#4 ∧ rngField w = 0#2 ∧ b2Field w = 0#8) ∨
        (opField w = 3#4 ∧ rngField w = 0#2 ∧ dataField w = 0#24) ∨ (opField w = 4#4 ∧ dataField w = 0#24)) := by
  simp [Rule.legalWord, ← BitVec.toNat_inj, rsvField_toNat, opField_toNat, rngField_toNat, b2Field_toNat,
    dataField_toNat]

theorem legalWord_of_hasFields {w : Word} {i : Instr} (h : HasFields w i) : Rule.legalWord w := by
  obtain ⟨hrsv, hop, hrng, hdata⟩ := h
  refine (legalWord_iff_fields w).2 ⟨hrsv, ?_⟩
  cases i with
  | decaxis rng b0 b1 b2 => exact .inl hop
  | dectemp hi lo =>
    obtain ⟨-, -, hb2⟩ := byteFields_of_dataField hdata
    exact .inr (.inl ⟨hop, hrng, hb2⟩)
  | fifocnt => exact .inr (.inr (.inl ⟨hop, hrng, hdata⟩))
  | fifodrain rng => exact .inr (.inr (.inr ⟨hop, hdata⟩))

/-- Each of R86's alternatives is the word of one command. -/
theorem exists_hasFields_of_legalWord {w : Word} (h : Rule.legalWord w) : ∃ i, HasFields w i := by
  obtain ⟨hrsv, hop | ⟨hop, hrng, hb2⟩ | ⟨hop, hrng, hdata⟩ | ⟨hop, hdata⟩⟩ := (legalWord_iff_fields w).1 h
  · exact ⟨.decaxis (rngField w) (b0Field w) (b1Field w) (b2Field w), hrsv, hop, rfl, dataField_eq_append w⟩
  · exact ⟨.dectemp (b0Field w) (b1Field w), hrsv, hop, hrng, by rw [dataField_eq_append, hb2, Instr.data]⟩
  · exact ⟨.fifocnt, hrsv, hop, hrng, hdata⟩
  · exact ⟨.fifodrain (rngField w), hrsv, hop, rfl, hdata⟩

theorem exists_decode_iff_legalWord (w : Word) : (∃ i, decode w = .ok i) ↔ Rule.legalWord w := by
  simp only [decode_eq_ok_iff_hasFields]
  exact ⟨fun ⟨_, h⟩ => legalWord_of_hasFields h, exists_hasFields_of_legalWord⟩

theorem exists_decode_error_of_not_legalWord {w : Word} (h : ¬ Rule.legalWord w) : ∃ e, decode w = .error e := by
  cases hd : decode w with
  | error e => exact ⟨e, rfl⟩
  | ok i => exact absurd ((exists_decode_iff_legalWord w).1 ⟨i, hd⟩) h

/-! ### The lines of the assembler -/

theorem disassemble_of_ok {w : Word} {i : Instr} (h : decode w = .ok i) : disassemble w = i.toLine := by
  simp [disassemble, h]

theorem disassemble_of_error {w : Word} {e : DecodeError} (h : decode w = .error e) :
    disassemble w = .word w.toNat := by
  simp [disassemble, h]

@[simp] theorem code_ofCode (c : BitVec 2) : (RangeName.ofCode c).code = c := by
  revert c
  decide

@[simp] theorem ofCode_code (r : RangeName) : RangeName.ofCode r.code = r := by
  cases r <;> rfl

theorem wellFormed_toLine (i : Instr) : i.toLine.wellFormed = true := by
  cases i with
  | decaxis rng b0 b1 b2 => exact decide_eq_true ⟨b0.isLt, b1.isLt, b2.isLt⟩
  | dectemp hi lo => exact decide_eq_true ⟨hi.isLt, lo.isLt⟩
  | fifocnt => rfl
  | fifodrain rng => rfl

/-- The line of a command assembles to its word: the operands come back from the literals that spell them. -/
theorem assemble_toLine (i : Instr) : assemble i.toLine = some (encode i) := by
  rw [assemble.eq_def, if_pos (wellFormed_toLine i)]
  cases i <;> simp [Instr.toLine]

theorem wellFormed_word_toNat (w : Word) : (AsmLine.word w.toNat).wellFormed = true := decide_eq_true w.isLt

theorem assemble_word_toNat (w : Word) : assemble (.word w.toNat) = some w := by
  simp [assemble, wellFormed_word_toNat]

/-- Every well-formed line of a mnemonic is the line of a command. -/
theorem exists_toLine_of_wellFormed {l : AsmLine} (hl : l.wellFormed = true) (hw : ∀ v, l ≠ .word v) :
    ∃ i : Instr, i.toLine = l := by
  cases l with
  | decaxis r b0 b1 b2 =>
    obtain ⟨h0, h1, h2⟩ := of_decide_eq_true hl
    refine ⟨.decaxis r.code (BitVec.ofNat 8 b0) (BitVec.ofNat 8 b1) (BitVec.ofNat 8 b2), ?_⟩
    simp [Instr.toLine, Nat.mod_eq_of_lt, h0, h1, h2]
  | dectemp hi lo =>
    obtain ⟨hhi, hlo⟩ := of_decide_eq_true hl
    refine ⟨.dectemp (BitVec.ofNat 8 hi) (BitVec.ofNat 8 lo), ?_⟩
    simp [Instr.toLine, Nat.mod_eq_of_lt, hhi, hlo]
  | fifocnt => exact ⟨.fifocnt, rfl⟩
  | fifodrain r => exact ⟨.fifodrain r.code, by rw [Instr.toLine, ofCode_code]⟩
  | word v => exact absurd rfl (hw v)

/-- A word disassembles to the line of its command or to a `.word` (R93); both are well formed and give it back. -/
theorem disassemble_cases (w : Word) :
    (∃ i, decode w = .ok i ∧ disassemble w = i.toLine) ∨
    ((∃ e, decode w = .error e) ∧ disassemble w = .word w.toNat) := by
  cases h : decode w with
  | ok i => exact .inl ⟨i, rfl, disassemble_of_ok h⟩
  | error e => exact .inr ⟨⟨e, rfl⟩, disassemble_of_error h⟩

theorem wellFormed_disassemble (w : Word) : (disassemble w).wellFormed = true := by
  rcases disassemble_cases w with ⟨i, -, e⟩ | ⟨-, e⟩ <;> rw [e]
  · exact wellFormed_toLine i
  · exact wellFormed_word_toNat w

theorem assemble_disassemble (w : Word) : assemble (disassemble w) = some w := by
  rcases disassemble_cases w with ⟨i, hd, e⟩ | ⟨-, e⟩ <;> rw [e]
  · rw [assemble_toLine, (decode_eq_ok_iff_encode_eq w i).1 hd]
  · exact assemble_word_toNat w

end Sys2Proof
end

section
/-! SUPPORT. The assembler's text (R92): a numeral reads back as its number, the operands of a line come apart where
they were joined, and so a line's text reads back as the line. -/

namespace Sys2Proof.Assembler

/-! ### Numerals -/

theorem digit_ofNat {d : Nat} (h : d < 10) : digit 10 (Char.ofNat ('0'.toNat + d)) = some d := by
  have hall : ∀ d : Fin 10, digit 10 (Char.ofNat ('0'.toNat + d.val)) = some d.val := by decide
  exact hall ⟨d, h⟩

theorem digits_singleton (base acc : Nat) {c : Char} {d : Nat} (h : digit base c = some d) :
    digits base acc [c] = some (acc * base + d) := by
  simp [digits, h]

/-- The decimal spelling of a number reads back as the number. -/
theorem digits_decimal (fuel : Nat) : ∀ n < 10 ^ (fuel + 1), digits 10 0 (decimal fuel n) = some n := by
  induction fuel with
  | zero =>
    intro n hn
    have hn : n < 10 := by simpa using hn
    rw [decimal, Nat.mod_eq_of_lt hn, digits_singleton 10 0 (digit_ofNat hn), Nat.zero_mul, Nat.zero_add]
  | succ fuel ih =>
    intro n hn
    rw [decimal]
    by_cases h : n < 10
    · rw [if_pos h, digits_singleton 10 0 (digit_ofNat h), Nat.zero_mul, Nat.zero_add]
    · have hq : n / 10 < 10 ^ (fuel + 1) := by
        rw [Nat.pow_succ] at hn
        exact Nat.div_lt_of_lt_mul (by omega)
      rw [if_neg h, digits_append, ih _ hq, Option.bind_some,
        digits_singleton 10 _ (digit_ofNat (Nat.mod_lt n (by decide))), Nat.div_add_mod']

theorem decimal_ne_nil (fuel n : Nat) : decimal fuel n ≠ [] := by
  cases fuel with
  | zero => exact List.cons_ne_nil _ _
  | succ fuel =>
    rw [decimal]
    split <;> simp

/-- A nonempty run of decimal digits is a decimal literal: it does not begin with `0x`. -/
theorem literal_of_digits {cs : List Char} {n : Nat} (hne : cs ≠ []) (h : digits 10 0 cs = some n) :
    literal cs = some n := by
  unfold literal
  split
  · exact absurd rfl hne
  · cases h
  · cases h
  · exact h

theorem literal_decimal {n : Nat} (h : n < 10 ^ 10) : literal (decimal 9 n) = some n :=
  literal_of_digits (decimal_ne_nil 9 n) (digits_decimal 9 n h)

/-- Every character of a numeral is a digit. -/
theorem exists_digit_of_mem {base : Nat} {c : Char} {cs : List Char} :
    ∀ {acc n : Nat}, digits base acc cs = some n → c ∈ cs → ∃ d, digit base c = some d := by
  induction cs with
  | nil => intro acc n _ hc; cases hc
  | cons a as ih =>
    intro acc n h hc
    obtain ⟨d, hd, hrest⟩ := Option.bind_eq_some_iff.1 h
    rcases List.mem_cons.1 hc with rfl | hc
    · exact ⟨d, hd⟩
    · exact ih hrest hc

/-! ### Operands -/

/-- No blank and no comma: the text of a mnemonic or of an operand. -/
def Solid (cs : List Char) : Prop := ∀ c ∈ cs, isBlank c = false ∧ c ≠ ','

theorem solid_rangeText (r : RangeName) : Solid (rangeText r) := by
  cases r <;> simp [Solid, rangeText, isBlank]

theorem solid_of_digits {cs : List Char} {n : Nat} (h : digits 10 0 cs = some n) : Solid cs := by
  intro c hc
  obtain ⟨d, hd⟩ := exists_digit_of_mem h hc
  have hne : ∀ a : Char, digit 10 a = none → c ≠ a := fun a ha e => by
    rw [e, ha] at hd
    cases hd
  have hspace : c ≠ ' ' := hne ' ' rfl
  have htab : c ≠ '\t' := hne '\t' rfl
  exact ⟨by simp [isBlank, hspace, htab], hne ',' rfl⟩

theorem solid_decimal {n : Nat} (h : n < 10 ^ 10) : Solid (decimal 9 n) := solid_of_digits (digits_decimal 9 n h)

theorem skipBlanks_of_solid {cs : List Char} (h : Solid cs) : skipBlanks cs = cs := by
  cases cs with
  | nil => rfl
  | cons c cs => simp [skipBlanks, (h c List.mem_cons_self).1]

/-- Trimming takes the blank before an operand, and nothing of the operand. -/
theorem trim_blank_cons {cs : List Char} (h : Solid cs) : trim (' ' :: cs) = cs := by
  have hskip : skipBlanks (' ' :: cs) = cs := skipBlanks_of_solid h
  have hrev : Solid cs.reverse := fun c hc => h c (List.mem_reverse.1 hc)
  rw [trim, hskip, skipBlanks_of_solid hrev, List.reverse_reverse]

theorem splitCommas_of_no_comma {cs : List Char} (h : ∀ c ∈ cs, c ≠ ',') : splitCommas cs = [cs] := by
  induction cs with
  | nil => rfl
  | cons c cs ih =>
    obtain ⟨hc, hcs⟩ := List.forall_mem_cons.1 h
    simp [splitCommas, ih hcs, hc]

theorem splitCommas_ne_nil (cs : List Char) : splitCommas cs ≠ [] := by
  cases cs with
  | nil => exact List.cons_ne_nil _ _
  | cons c cs =>
    rw [splitCommas]
    split
    · exact List.cons_ne_nil _ _
    · split <;> exact List.cons_ne_nil _ _

theorem splitCommas_comma_cons (rest : List Char) : splitCommas (',' :: rest) = [] :: splitCommas rest := by
  obtain ⟨part, parts, h⟩ := List.exists_cons_of_ne_nil (splitCommas_ne_nil rest)
  simp [splitCommas, h]

theorem splitCommas_append_comma {cs : List Char} (h : ∀ c ∈ cs, c ≠ ',') (rest : List Char) :
    splitCommas (cs ++ ',' :: rest) = cs :: splitCommas rest := by
  induction cs with
  | nil => exact splitCommas_comma_cons rest
  | cons c cs ih =>
    obtain ⟨hc, hcs⟩ := List.forall_mem_cons.1 h
    rw [List.cons_append, splitCommas, ih hcs]
    simp [hc]

/-- Operands as the disassembler joins them: a blank before each, commas between them (log entry 21). -/
def joinOperands : List (List Char) → List Char
  | [] => []
  | [op] => ' ' :: op
  | op :: next :: ops => ' ' :: op ++ ',' :: joinOperands (next :: ops)

/-- Joined operands come apart again. -/
theorem split_joinOperands {ops : List (List Char)} (hne : ops ≠ []) (h : ∀ op ∈ ops, Solid op) :
    (splitCommas (joinOperands ops)).map trim = ops := by
  induction ops with
  | nil => exact absurd rfl hne
  | cons op ops ih =>
    obtain ⟨hop, hops⟩ := List.forall_mem_cons.1 h
    have hcomma : ∀ c ∈ ' ' :: op, c ≠ ',' := List.forall_mem_cons.2 ⟨by decide, fun c hc => (hop c hc).2⟩
    cases ops with
    | nil => rw [joinOperands, splitCommas_of_no_comma hcomma, List.map_singleton, trim_blank_cons hop]
    | cons next ops =>
      rw [joinOperands, splitCommas_append_comma hcomma, List.map_cons, trim_blank_cons hop,
        ih (List.cons_ne_nil _ _) hops]

/-! ### Lines -/

theorem breakAt_blank {m : List Char} (hm : Solid m) (rest : List Char) :
    breakAt isBlank (m ++ ' ' :: rest) = (m, ' ' :: rest) := by
  induction m with
  | nil => rfl
  | cons c cs ih =>
    obtain ⟨hc, hcs⟩ := List.forall_mem_cons.1 hm
    obtain ⟨hblank, -⟩ := hc
    simp [breakAt, ih hcs, hblank]

/-- A mnemonic with its operands is read as the line they make. -/
theorem parseLine_mnemonic {m : List Char} {ops : List (List Char)} (hm : Solid m) (hm0 : m ≠ []) (hne : ops ≠ [])
    (hops : ∀ op ∈ ops, Solid op) : parseLine (m ++ joinOperands ops) = lineOf m ops := by
  obtain ⟨rest, hrest⟩ : ∃ rest, joinOperands ops = ' ' :: rest := by
    cases ops with
    | nil => exact absurd rfl hne
    | cons op ops => cases ops <;> exact ⟨_, rfl⟩
  have hskip : skipBlanks (m ++ ' ' :: rest) = m ++ ' ' :: rest := by
    cases m with
    | nil => exact absurd rfl hm0
    | cons c cs => simp [skipBlanks, (hm c List.mem_cons_self).1]
  rw [parseLine, hrest, hskip, breakAt_blank hm]
  simp only
  rw [← hrest, split_joinOperands hne hops]

/-- The text of a line reads back as the line (R92, R93). -/
theorem parseLine_lineText {l : AsmLine} (hl : l.wellFormed = true) : parseLine (lineText l) = some l := by
  cases l with
  | decaxis r b0 b1 b2 =>
    obtain ⟨h0, h1, h2⟩ := of_decide_eq_true hl
    replace h0 : b0 < 10 ^ 10 := by omega
    replace h1 : b1 < 10 ^ 10 := by omega
    replace h2 : b2 < 10 ^ 10 := by omega
    have htext : lineText (.decaxis r b0 b1 b2) =
        "DECAXIS".toList ++ joinOperands [rangeText r, decimal 9 b0, decimal 9 b1, decimal 9 b2] := by
      simp [lineText_decaxis, joinOperands]
    rw [htext, parseLine_mnemonic (by simp [Solid, isBlank]) (by decide) (by simp)]
    · simp [lineOf, rangeName_rangeText, literal_decimal h0, literal_decimal h1, literal_decimal h2]
    · simp only [List.forall_mem_cons]
      exact ⟨solid_rangeText r, solid_decimal h0, solid_decimal h1, solid_decimal h2, List.forall_mem_nil _⟩
  | dectemp hi lo =>
    obtain ⟨hhi, hlo⟩ := of_decide_eq_true hl
    replace hhi : hi < 10 ^ 10 := by omega
    replace hlo : lo < 10 ^ 10 := by omega
    have htext : lineText (.dectemp hi lo) = "DECTEMP".toList ++ joinOperands [decimal 9 hi, decimal 9 lo] := by
      simp [lineText_dectemp, joinOperands]
    rw [htext, parseLine_mnemonic (by simp [Solid, isBlank]) (by decide) (by simp)]
    · simp [lineOf, literal_decimal hhi, literal_decimal hlo]
    · simp only [List.forall_mem_cons]
      exact ⟨solid_decimal hhi, solid_decimal hlo, List.forall_mem_nil _⟩
  | fifocnt => decide
  | fifodrain r =>
    have htext : lineText (.fifodrain r) = "FIFODRAIN".toList ++ joinOperands [rangeText r] := by
      simp [lineText_fifodrain, joinOperands]
    rw [htext, parseLine_mnemonic (by simp [Solid, isBlank]) (by decide) (by simp)]
    · simp [lineOf, rangeName_rangeText]
    · exact List.forall_mem_singleton.2 (solid_rangeText r)
  | word v =>
    have hv : v < 4294967296 := of_decide_eq_true hl
    replace hv : v < 10 ^ 10 := by omega
    have htext : lineText (.word v) = ".word".toList ++ joinOperands [decimal 9 v] := by
      simp [lineText_word, joinOperands]
    rw [htext, parseLine_mnemonic (by simp [Solid, isBlank]) (by decide) (by simp)]
    · simp [lineOf, literal_decimal hv]
    · exact List.forall_mem_singleton.2 (solid_decimal hv)

end Sys2Proof.Assembler
end

section
/-! SUPPORT. The response word by word (R89, R90): the header's reserved bits, what makes a response well formed, that
every response entered is; and the error entry of an accepted word in the arithmetic of the rules (R141, R188). -/

namespace Sys2Proof.Machine

/-- Bits 15:7 of a header are 0 (R89). -/
@[simp] theorem reservedBits_header (n : Nat) (k : Status) (op : BitVec 4) :
    (header n k op).extractLsb' 7 9 = 0#9 := by
  apply BitVec.eq_of_toNat_eq
  have := op.isLt
  have := (statusCode k).isLt
  simp only [toNat_field, header_toNat_mod, BitVec.toNat_ofNat]
  omega

theorem statusCode_le_four (k : Status) : (statusCode k).toNat ≤ 4 := by
  cases k <;> decide

theorem statusCode_eq_zero_iff (k : Status) : statusCode k = 0#3 ↔ k = .ok := by
  cases k <;> decide

/-! ### Well-formed responses -/

/-- The queue holds one whole response to the latched command (R89, R90, R155, R185). -/
def ResponseWellFormed (s : State) : Prop :=
  ∃ h p, s.rspq = h :: p ∧ headerOp h = s.opl ∧ h.extractLsb' 7 9 = 0#9 ∧ (headerStatus h).toNat ≤ 4 ∧
    (headerPlen h).toNat = p.length ∧ p.length ≤ 256 ∧ (headerStatus h ≠ 0#3 → p = [])

/-- `Emit` builds a well-formed response from a payload that fits the queue and is empty for an error (R90). -/
theorem responseWellFormed_emit {k : Status} {p : List Word} (s : State) (hp : p.length ≤ 256)
    (hk : k ≠ .ok → p = []) : ResponseWellFormed (emit k p s) := by
  refine ⟨header p.length k s.opl, p, rfl, headerOp_header _ _ _, reservedBits_header _ _ _, ?_, ?_, hp, ?_⟩
  · rw [headerStatus_header]
    exact statusCode_le_four k
  · rw [headerPlen_header, BitVec.toNat_ofNat, Nat.mod_eq_of_lt (by omega)]
  · rw [headerStatus_header, ne_eq, statusCode_eq_zero_iff]
    exact hk

theorem responseWellFormed_emit_ok {p : List Word} (s : State) (hp : p.length ≤ 256) :
    ResponseWellFormed (emit .ok p s) :=
  responseWellFormed_emit s hp fun h => absurd rfl h

theorem responseWellFormed_raise (k : Status) (s : State) : ResponseWellFormed (raise k s) :=
  responseWellFormed_emit _ (Nat.zero_le _) fun _ => rfl

theorem responseWellFormed_acceptOf (i : Instr) {s : State} (ht : (acceptOf i s).st = .resp) :
    ResponseWellFormed (acceptOf i s) := by
  rcases acceptOf_cases i s with ⟨p, hp, e⟩ | ⟨k, -, e⟩ | ⟨-, -, e⟩ <;> rw [e] at ht ⊢
  · exact responseWellFormed_emit_ok _ (by omega)
  · exact responseWellFormed_raise k _
  · cases ht

theorem responseWellFormed_proceed {s : State} (hi : s.st ≠ .idle) (hs : s.st ≠ .resp)
    (ht : (proceed s).st = .resp) : ResponseWellFormed (proceed s) := by
  rcases proceed_cases s hi with e | ⟨-, -, e⟩ | ⟨-, c, -, -, e⟩ | ⟨-, c, -, -, -, e⟩ | ⟨-, c, -, -, -, e⟩ |
    ⟨-, bytes, -, hn, e⟩ | ⟨-, -, e⟩ | ⟨hw, -, e⟩ <;> rw [e] at ht ⊢
  · exact absurd ht hs
  · cases ht
  · exact responseWellFormed_emit_ok _ (by simp)
  · exact responseWellFormed_emit_ok _ (by simp)
  · cases ht
  · have hd : burstData (writeBuf bytes (consumeAnswer s)) = bytes := burstData_writeBuf hn
    exact responseWellFormed_emit_ok _ (length_batch_le _ _ _ (by rw [hd]; exact hn))
  · exact responseWellFormed_raise .busError _
  · exact absurd hw hs

/-- Every step of the block that enters `RESP` enters it with a well-formed response. -/
theorem responseWellFormed_sdfrStep {s t : State} (hst : sdfrStep s = .next t) (hs : s.st ≠ .resp)
    (ht : t.st = .resp) : ResponseWellFormed t := by
  rcases sdfrStep_cases s with ⟨-, e⟩ | ⟨-, -, -, e⟩ | ⟨-, -, -, i, -, e⟩ | ⟨-, -, -, -, e⟩ | ⟨-, hb, e⟩ <;>
    rw [e] at hst <;> cases hst
  · cases ht
  · exact absurd ht hs
  · exact responseWellFormed_acceptOf i ht
  · exact responseWellFormed_raise .illegalCmd _
  · exact responseWellFormed_proceed hb hs ht

/-! ### The error entry of an accepted word -/

/-- The word of an error, `(STATUS << 4) | OP` (R188). -/
theorem header_zero_eq (k : Status) (op : BitVec 4) :
    header 0 k op = BitVec.ofNat 32 ((statusCode k).toNat * 16 + op.toNat) := by
  apply BitVec.eq_of_toNat_eq
  have := op.isLt
  have := (statusCode k).isLt
  rw [header_toNat_mod, BitVec.toNat_ofNat]
  omega

/-- Latching the fields of a word is the rules' latch of its number (R141). -/
theorem latch_fields (w : Word) (s : State) :
    latch (opField w) (rngField w) (dataField w) s = Rule.latched w s := by
  rw [Rule.latched, ← opField_toNat, ← rngField_toNat, ← dataField_toNat, BitVec.ofNat_toNat, BitVec.ofNat_toNat,
    BitVec.ofNat_toNat]
  simp [latch]

/-- An error entered with the word latched is the rules' error entry with the word's own `OP` (R188). -/
theorem raise_latched (k : Status) (w : Word) (s : State) :
    raise k (Rule.latched w s) = Rule.failed (statusCode k).toNat (w.toNat % 16) (Rule.latched w s) := by
  rw [raise, emit, Rule.failed, List.length_nil, header_zero_eq, ← latch_fields, ← opField_toNat]
  rfl

theorem rejectWord_eq_failed (w : Word) (s : State) :
    rejectWord w s = Rule.failed 4 (w.toNat % 16) (Rule.latched w s) := by
  rw [rejectWord, latch_fields, raise_latched]
  rfl

/-- An illegal word is rejected in the accept step (R87). -/
theorem acceptWord_of_not_legalWord {w : Word} (h : ¬ Rule.legalWord w) (s : State) :
    acceptWord w s = .next (Rule.failed 4 (w.toNat % 16) (Rule.latched w s)) := by
  obtain ⟨e, he⟩ := exists_decode_error_of_not_legalWord h
  rw [acceptWord_error he, rejectWord_eq_failed]

/-- The command of a word latches the word's own fields. -/
theorem latch_command_eq_latched {w : Word} {i : Instr} (h : decode w = .ok i) (s : State) :
    latch i.opCode i.rangeCode i.data s = Rule.latched w s := by
  obtain ⟨-, hop, hrng, hdata⟩ := hasFields_of_decode h
  rw [← hop, ← hrng, ← hdata, latch_fields]

/-- A command that takes a range is refused at code 00 with INVALID_RANGE, when the device is ready (R102, R142). -/
theorem acceptOf_invalidRange {i : Instr} {s : State} (hready : s.devReady = true) (hrng : i.rangeCode = 0#2)
    (hop : i.opCode = 1#4 ∨ i.opCode = 4#4) :
    acceptOf i s = raise .invalidRange (latch i.opCode i.rangeCode i.data s) := by
  cases i with
  | decaxis rng b0 b1 b2 =>
    obtain rfl : rng = 0#2 := hrng
    rfl
  | fifodrain rng =>
    obtain rfl : rng = 0#2 := hrng
    simp [acceptOf, acceptFifodrain, hready, Instr.opCode, Instr.rangeCode, Instr.data]
  | _ => simp [Instr.opCode] at hop

/-- A legal word whose command takes a range, with `RNG` = 00, is answered INVALID_RANGE in `IDLE` (R86, R102). -/
theorem acceptWord_of_range_zero {w : Word} {s : State} (hw : Rule.legalWord w) (hrng : w.toNat / 16 % 4 = 0)
    (hs : s.st = .idle) (hready : s.devReady = true) (hop : w.toNat % 16 = 1 ∨ w.toNat % 16 = 4) :
    acceptWord w s = .next (Rule.failed 2 (w.toNat % 16) (Rule.latched w s)) := by
  obtain ⟨i, hd⟩ := (exists_decode_iff_legalWord w).2 hw
  obtain ⟨-, hopi, hrngi, -⟩ := hasFields_of_decode hd
  have hi : i.rangeCode = 0#2 := by
    rw [← hrngi]
    exact BitVec.eq_of_toNat_eq (by rw [rngField_toNat, hrng, BitVec.toNat_ofNat])
  have ho : i.opCode = 1#4 ∨ i.opCode = 4#4 := by
    rw [← hopi]
    simpa [← BitVec.toNat_inj, opField_toNat] using hop
  rw [acceptWord_ok hd, exec_idle i hs, acceptOf_invalidRange hready hi ho, latch_command_eq_latched hd, raise_latched]
  rfl

end Sys2Proof.Machine
end

section
/-! THE OBLIGATIONS of 30_encoding.md, each from the lemmas above. -/

namespace Sys2Proof.Proofs

open Sys2Proof.Machine

/-- Settles O1: a word is the word of a command, and is decoded as the command, exactly when it has its fields. -/
theorem decodeOfEncodeIsTheCommand : Obligations.DecodeOfEncodeIsTheCommand := by
  unfold Obligations.DecodeOfEncodeIsTheCommand
  exact decode_encode

/-- Settles O2, as the other direction of the same equivalence. -/
theorem encodeOfDecodeIsTheWord : Obligations.EncodeOfDecodeIsTheWord := by
  unfold Obligations.EncodeOfDecodeIsTheWord
  intro w i
  exact (decode_eq_ok_iff_encode_eq w i).1

/-- Settles O3: R86 is read on the fields, and a legal range code 00 meets its check in the accept step. -/
theorem decoderAcceptsExactlyTheLegalWords : Obligations.DecoderAcceptsExactlyTheLegalWords := by
  unfold Obligations.DecoderAcceptsExactlyTheLegalWords
  refine ⟨exists_decode_iff_legalWord, fun w s hw hrng hs hready hop => ?_⟩
  exact acceptWord_of_range_zero hw hrng hs hready hop

/-- Settles O4: every line of a mnemonic is the line of a command, whose word decodes to it. -/
theorem assemblerAndDisassemblerAgree : Obligations.AssemblerAndDisassemblerAgree := by
  unfold Obligations.AssemblerAndDisassemblerAgree
  refine ⟨fun l hl hword => ?_, fun w hw => ?_, fun w hw => ?_, assemble_disassemble⟩
  · obtain ⟨i, rfl⟩ := exists_toLine_of_wellFormed hl hword
    exact ⟨encode i, assemble_toLine i, disassemble_of_ok (decode_encode i)⟩
  · obtain ⟨i, hd⟩ := (exists_decode_iff_legalWord w).2 hw
    exact ⟨i, hd, disassemble_of_ok hd⟩
  · obtain ⟨e, hd⟩ := exists_decode_error_of_not_legalWord hw
    exact disassemble_of_error hd

/-- Settles O5: the text reads back as the line (`parseLine_lineText`), and the line assembles to the word (O4). -/
theorem disassembledTextAssemblesBack : Obligations.DisassembledTextAssemblesBack := by
  unfold Obligations.DisassembledTextAssemblesBack
  intro w
  rw [Assembler.assembleText, Assembler.parseLine_lineText (wellFormed_disassemble w), Option.bind_some,
    assemble_disassemble]

/-- Settles O32: the other agents do not move `ST`, and the block enters `RESP` by `Emit` alone. -/
theorem responsesAreWellFormed : Obligations.ResponsesAreWellFormed := by
  unfold Obligations.ResponsesAreWellFormed
  intro s t hst hs ht
  rcases step_cases hst with ⟨-, hblock⟩ | ⟨e, rest, -, he, hm⟩
  · exact responseWellFormed_sdfrStep (s := { s with agenda := s.agenda.tail }) hblock hs ht
  · obtain ⟨hsame, -⟩ := agentMove_keeps_registers he hm
    exact absurd (hsame.symm.trans ht) hs

/-- Settles O6, by running the decoder on each word. -/
theorem sampleWordsDecode : Obligations.SampleWordsDecode := by
  unfold Obligations.SampleWordsDecode
  exact ⟨rfl, rfl, rfl, rfl, rfl, rfl, rfl, rfl⟩

/-- Settles O29: the word is accepted in `IDLE`, and an illegal one is rejected whatever else holds. -/
theorem illegalWordsAreAnsweredAndDoNothing : Obligations.IllegalWordsAreAnsweredAndDoNothing := by
  unfold Obligations.IllegalWordsAreAnsweredAndDoNothing
  intro s ha hr hs hv hw
  rw [step_of_no_agenda ha, sdfrStep_idle hr hs, if_pos hv, acceptWord_of_not_legalWord hw]

/-- Settles O52: a `PLEN` below 65536 is its own remainder. -/
theorem headerWordIsPackedAsStated : Obligations.HeaderWordIsPackedAsStated := by
  unfold Obligations.HeaderWordIsPackedAsStated
  intro n k op hn
  rw [header_toNat_mod, Nat.mod_eq_of_lt hn]
  rfl

end Sys2Proof.Proofs
end

section
/-! SUPPORT. The axis datapath in the arithmetic of the rules (R100 to R103): unpacker, sign extension, scaler, and the
bytes that carry a given count (R111). -/

namespace Sys2Proof.Machine

/-! ### The unpacker and the sign extension -/

theorem unpack_toNat (b0 b1 b2 : Byte) :
    (unpack b0 b1 b2).toNat = b0.toNat * 2 ^ 12 + b1.toNat * 2 ^ 4 + b2.toNat / 2 ^ 4 := by
  have := b2.isLt
  simp only [unpack, toNat_append_eq_add, toNat_field]
  omega

/-- Bit 19 is the sign bit of the 20-bit field (R101, R110). -/
theorem bitNineteen_iff_sx20_neg (u : BitVec 20) : u.getLsbD 19 = true ↔ sx20 u < 0 := by
  have hmsb : u.getLsbD 19 = u.msb := u.msb_eq_getLsbD_last.symm
  rw [hmsb, BitVec.msb_eq_toInt, decide_eq_true_iff, sx20]

/-- Two's complement over 20 bits: the upper half of the values is negative (R101). -/
theorem sx20_eq (u : BitVec 20) :
    sx20 u = if u.toNat < 524288 then (u.toNat : Int) else (u.toNat : Int) - 1048576 := by
  rw [sx20, BitVec.toInt_eq_toNat_cond]
  split <;> split <;> omega

theorem sx20_range (u : BitVec 20) : -524288 ≤ sx20 u ∧ sx20 u ≤ 524287 := by
  have := u.isLt
  rw [sx20_eq]
  split <;> omega

theorem sx20_unpack (b0 b1 b2 : Byte) : sx20 (unpack b0 b1 b2) = Rule.axisCount b0 b1 b2 := by
  rw [sx20_eq, unpack_toNat]
  rfl

/-! ### The scaler -/

theorem rangeCode_cases {c : BitVec 2} (h : c ≠ 0#2) : c = 1#2 ∨ c = 2#2 ∨ c = 3#2 := by
  revert c
  decide

theorem rangeFactor_eq_pow {c : BitVec 2} {k : Nat} (h : shiftOf c = some k) : Rule.rangeFactor c = 2 ^ k := by
  by_cases hc : c = 0#2
  · subst hc
    cases h
  · rcases rangeCode_cases hc with rfl | rfl | rfl <;> cases h <;> rfl

/-- `2^SHIFT(c) = 256000/DIV(c)` (R102). -/
theorem rangeFactor_mul_div {c : BitVec 2} {d : Nat} (h : divOf c = some d) :
    c ≠ 0#2 ∧ Rule.rangeFactor c * (d : Int) = 256000 := by
  have hc : c ≠ 0#2 := by
    rintro rfl
    cases h
  rcases rangeCode_cases hc with rfl | rfl | rfl <;> cases h <;> exact ⟨hc, rfl⟩

theorem rangeFactor_cases (c : BitVec 2) :
    Rule.rangeFactor c = 1 ∨ Rule.rangeFactor c = 2 ∨ Rule.rangeFactor c = 4 := by
  revert c
  decide

theorem rangeFactor_pos (c : BitVec 2) : 0 < Rule.rangeFactor c := by
  rcases rangeFactor_cases c with h | h | h <;> omega

/-- At a valid range the scaler multiplies by the range's factor (R103). -/
theorem scale_eq_mul {c : BitVec 2} (hc : c ≠ 0#2) (v : Int) : scale v c = v * Rule.rangeFactor c := by
  rcases rangeCode_cases hc with rfl | rfl | rfl <;> rfl

theorem axisValue_eq_axisFx {c : BitVec 2} (hc : c ≠ 0#2) (b0 b1 b2 : Byte) :
    axisValue c b0 b1 b2 = Rule.axisFx c b0 b1 b2 := by
  rw [axisValue, scale_eq_mul hc, sx20_unpack, Rule.axisFx]

/-- A scaled count fits 23 signed bits (R103). -/
theorem scale_range {c : BitVec 2} (hc : c ≠ 0#2) (u : BitVec 20) :
    -2097152 ≤ scale (sx20 u) c ∧ scale (sx20 u) c ≤ 2097148 := by
  obtain ⟨hmin, hmax⟩ := sx20_range u
  rw [scale_eq_mul hc]
  rcases rangeFactor_cases c with h | h | h <;> rw [h] <;> omega

/-- A response word represents every integer of 32 signed bits (R9). -/
theorem word32_toInt {v : Int} (hmin : -2147483648 ≤ v) (hmax : v < 2147483648) : (word32 v).toInt = v :=
  BitVec.toInt_ofInt_eq_self (by decide) hmin hmax

/-! ### The bytes of a count -/

/-- A 20-bit value left-packed into three bytes unpacks to itself, whatever the low nibble (R111). -/
theorem packed_toNat {u nibble : Nat} (hu : u < 1048576) (hn : nibble < 16) :
    (BitVec.ofNat 8 (u / 4096)).toNat * 4096 + (BitVec.ofNat 8 (u / 16 % 256)).toNat * 16 +
      (BitVec.ofNat 8 (u % 16 * 16 + nibble)).toNat / 16 = u := by
  simp only [BitVec.toNat_ofNat]
  omega

/-- The bytes of a signed count are read as that count (R111). -/
theorem axisCount_packed {v : Int} {u nibble : Nat} (hu : u = (v % 1048576).toNat) (hmin : -524288 ≤ v)
    (hmax : v ≤ 524287) (hn : nibble < 16) :
    Rule.axisCount (BitVec.ofNat 8 (u / 4096)) (BitVec.ofNat 8 (u / 16 % 256))
      (BitVec.ofNat 8 (u % 16 * 16 + nibble)) = v := by
  simp only [Rule.axisCount, packed_toNat (show u < 1048576 by omega) hn]
  split <;> omega

end Sys2Proof.Machine
end

section
/-! SUPPORT. The temperature datapath (R105, R106, R108): the raw count, and how far a ROM entry can be from the
calibration line, from which its bounds and its slope follow. -/

namespace Sys2Proof.Machine

theorem traw_toNat (hi lo : Byte) : (traw hi lo).toNat = hi.toNat % 16 * 256 + lo.toNat := by
  rw [traw, toNat_append_eq_add, toNat_field, Nat.pow_zero, Nat.div_one]
  rfl

/-- The calibration line of R106 in units of 2^-16/181 degrees C. -/
def calibrationLine (r : BitVec 12) : Int := (41565 - 20 * (r.toNat : Int)) * 65536

/-- The floor form rounds to nearest: the floor puts twice the distance in the half-open interval of length 362, and
its open end is not met because 181 is odd (R106). -/
theorem tlutInt_near_line (r : BitVec 12) :
    2 * (181 * tlutInt r - calibrationLine r) < 181 ∧ -181 < 2 * (181 * tlutInt r - calibrationLine r) := by
  rw [tlutInt, calibrationLine]
  omega

/-- A ROM entry fits 25 signed bits (R106). -/
theorem tlutInt_range (r : BitVec 12) : -16777216 ≤ tlutInt r ∧ tlutInt r < 16777216 := by
  have hr := r.isLt
  have hnear := tlutInt_near_line r
  rw [calibrationLine] at hnear
  omega

/-- The line falls by 1310720 an entry, which is 181·7241 + 99, and the two roundings together lose less than 181
(R108). -/
theorem tlutInt_falls {r r' : BitVec 12} (h : r.toNat < r'.toNat) :
    tlutInt r' + 7241 * ((r'.toNat : Int) - r.toNat) ≤ tlutInt r := by
  have hnear := tlutInt_near_line r
  have hnear' := tlutInt_near_line r'
  rw [calibrationLine] at hnear hnear'
  omega

theorem tlutInt_abs_error (r : BitVec 12) : |181 * tlutInt r - calibrationLine r| * 2 ≤ 181 := by
  have hnear := tlutInt_near_line r
  have habs : |181 * tlutInt r - calibrationLine r| ≤ 90 := abs_le.2 (by omega)
  omega

end Sys2Proof.Machine
end

section
/-! SUPPORT. The accept steps of the decode commands (R104, R107), and that which end such a step takes, and with what
payload, is a matter of its word alone (R112). -/

namespace Sys2Proof.Machine

theorem append_eq_dataOf (b0 b1 b2 : Byte) : (b0 ++ b1 ++ b2 : BitVec 24) = Rule.dataOf b0 b1 b2 := by
  apply BitVec.eq_of_toNat_eq
  have := b0.isLt
  have := b1.isLt
  have := b2.isLt
  rw [data_toNat, Rule.dataOf, BitVec.toNat_ofNat]
  omega

/-- An error entry is the rules' error entry with the `OP` that stands in `OPL` (R188). -/
theorem raise_eq_failed (k : Status) (s : State) :
    raise k s = Rule.failed (statusCode k).toNat s.opl.toNat s := by
  rw [raise, emit, Rule.failed, List.length_nil, header_zero_eq]

/-- With the lock released and no request pending, an error entry only emits (R188 (c): "if set"). -/
theorem raise_eq_emit {s : State} (k : Status) (hl : s.lock = false) (hb : s.breq = none) :
    raise k s = emit k [] s := by
  have hs : { s with lock := false, breq := none } = s := by rw [← hl, ← hb]
  rw [raise, hs]

theorem acceptOf_decaxis_valid {rng : BitVec 2} (hr : rng ≠ 0#2) (b0 b1 b2 : Byte) (s : State) :
    acceptOf (.decaxis rng b0 b1 b2) s =
      emit .ok [word32 (Rule.axisCount b0 b1 b2), word32 (Rule.axisFx rng b0 b1 b2)]
        (latch 1#4 rng (Rule.dataOf b0 b1 b2) s) := by
  simp only [acceptOf, acceptDecaxis, if_neg hr, sx20_unpack, axisValue_eq_axisFx hr, append_eq_dataOf]

theorem acceptOf_decaxis_invalid (b0 b1 b2 : Byte) (s : State) :
    acceptOf (.decaxis 0#2 b0 b1 b2) s = raise .invalidRange (latch 1#4 0#2 (Rule.dataOf b0 b1 b2) s) := by
  simp only [acceptOf, acceptDecaxis, if_true, append_eq_dataOf]

theorem acceptOf_dectemp (hi lo : Byte) (s : State) :
    acceptOf (.dectemp hi lo) s =
      emit .ok [BitVec.ofNat 32 (traw hi lo).toNat, tlut (traw hi lo)] (latch 2#4 0#2 (Rule.dataOf hi lo 0#8) s) := by
  rw [← append_eq_dataOf, BitVec.ofNat_toNat]
  rfl

/-- DECAXIS at a valid range answers with the count and the scaled value (R104). -/
theorem exec_decaxis_valid {rng : BitVec 2} {s : State} (hs : s.st = .idle) (hr : rng ≠ 0#2) (b0 b1 b2 : Byte) :
    exec (.decaxis rng b0 b1 b2) s = .next { s with
      opl := 1#4, rngl := rng, datal := Rule.dataOf b0 b1 b2, st := .resp
      rspq := [0x00020001#32, BitVec.ofInt 32 (Rule.axisCount b0 b1 b2),
        BitVec.ofInt 32 (Rule.axisFx rng b0 b1 b2)] } := by
  rw [exec_idle _ hs, acceptOf_decaxis_valid hr, ← header_ok_decaxis]
  rfl

/-- A decode command emits a payload that its word fixes, or is refused for the range in its word; the state it finds
decides neither (R112). -/
theorem acceptOf_decode_cases {i : Instr}
    (hi : (∃ rng b0 b1 b2, i = .decaxis rng b0 b1 b2) ∨ (∃ hi lo, i = .dectemp hi lo)) :
    (∃ op rng data p, ∀ s, acceptOf i s = emit .ok p (latch op rng data s)) ∨
    (∃ op rng data, ∀ s, acceptOf i s = raise .invalidRange (latch op rng data s)) := by
  rcases hi with ⟨rng, b0, b1, b2, rfl⟩ | ⟨hi, lo, rfl⟩
  · by_cases hr : rng = 0#2
    · subst hr
      exact .inr ⟨_, _, _, acceptOf_decaxis_invalid b0 b1 b2⟩
    · exact .inl ⟨_, _, _, _, acceptOf_decaxis_valid hr b0 b1 b2⟩
  · exact .inl ⟨_, _, _, _, acceptOf_dectemp hi lo⟩

end Sys2Proof.Machine
end

section
/-! THE OBLIGATIONS of 40_decoder.md, each from the lemmas above. -/

namespace Sys2Proof.Proofs

open Sys2Proof.Machine

/-- Settles O17: the packed bytes are read as the count they carry, and the factor of a range is 256000 over its
divisor. -/
theorem axisRoundTripIsExact : Obligations.AxisRoundTripIsExact := by
  unfold Obligations.AxisRoundTripIsExact
  intro s c v nibble d hs hd hmin hmax hn u
  obtain ⟨hc, hfactor⟩ := rangeFactor_mul_div hd
  refine ⟨_, exec_decaxis_valid hs hc _ _ _, ?_, ?_⟩
  · simp only [Rule.axisFx, axisCount_packed (u := u) rfl hmin hmax hn]
  · rw [Int.mul_assoc, hfactor]

/-- Settles O18: the word fixes the end of the accept step, and under the invariant neither end moves the lock or the
request. -/
theorem decodeCommandsArePure : Obligations.DecodeCommandsArePure := by
  unfold Obligations.DecodeCommandsArePure
  intro i s s' hi hs hs'
  refine ⟨acceptOf i s, acceptOf i s', exec_idle i hs, exec_idle i hs', ?_⟩
  rcases acceptOf_decode_cases hi with ⟨op, rng, data, p, e⟩ | ⟨op, rng, data, e⟩ <;> rw [e, e]
  · exact ⟨rfl, fun _ => rfl⟩
  · refine ⟨rfl, fun hinv => ?_⟩
    obtain ⟨-, hl, hb, -⟩ := (sdfrInv_iff_of_idle hs).1 hinv
    rw [raise_eq_emit .invalidRange (s := latch op rng data s) hl hb]
    rfl

/-- Settles O7: concatenation is addition at a power of two. -/
theorem unpackerReassemblesTwentyBits : Obligations.UnpackerReassemblesTwentyBits := by
  unfold Obligations.UnpackerReassemblesTwentyBits
  exact unpack_toNat

/-- Settles O8: bit 19 is set exactly for the negative values, which are the upper half. -/
theorem signExtensionSubtractsTwoToTheTwenty : Obligations.SignExtensionSubtractsTwoToTheTwenty := by
  unfold Obligations.SignExtensionSubtractsTwoToTheTwenty
  intro u
  refine ⟨?_, sx20_range u⟩
  have hlt := u.isLt
  simp only [bitNineteen_iff_sx20_neg, sx20_eq]
  split <;> split <;> omega

/-- Settles O9, from the factor of the range. -/
theorem scalerIsExact : Obligations.ScalerIsExact := by
  unfold Obligations.ScalerIsExact
  intro u c k d hk hd
  obtain ⟨hc, hfactor⟩ := rangeFactor_mul_div hd
  obtain ⟨hmin, hmax⟩ := scale_range hc u
  refine ⟨?_, ?_, hmin, hmax, word32_toInt (by omega) (by omega)⟩
  · rw [scale_eq_mul hc, rangeFactor_eq_pow hk]
  · rw [scale_eq_mul hc, Int.mul_assoc, hfactor]

/-- Settles O10: the low nibble of the high byte, then the low byte. -/
theorem rawTemperatureMasksTheHighNibble : Obligations.RawTemperatureMasksTheHighNibble := by
  unfold Obligations.RawTemperatureMasksTheHighNibble
  exact traw_toNat

/-- Settles O11: every entry by its distance from the line, the two ends by evaluation. -/
theorem romEntriesAreTheRoundedLine : Obligations.RomEntriesAreTheRoundedLine := by
  unfold Obligations.RomEntriesAreTheRoundedLine
  refine ⟨fun r => ?_, by decide, by decide, by decide, by decide⟩
  obtain ⟨habove, hbelow⟩ := tlutInt_near_line r
  obtain ⟨hmin, hmax⟩ := tlutInt_range r
  exact ⟨habove, hbelow, rfl, hmin, hmax, word32_toInt (by omega) (by omega)⟩

/-- Settles O12, from the distance of the entries from the line. -/
theorem romIsStrictlyDecreasing : Obligations.RomIsStrictlyDecreasing := by
  unfold Obligations.RomIsStrictlyDecreasing
  exact ⟨fun _ _ h => tlutInt_falls h, tlutInt_abs_error⟩

/-- Settles O13: bit 19 is the sign of the count, and the factor of a range is positive. -/
theorem signOfResultsIsBitNineteen : Obligations.SignOfResultsIsBitNineteen := by
  unfold Obligations.SignOfResultsIsBitNineteen
  intro b0 b1 b2 c hc u
  have hvalue : axisValue c b0 b1 b2 = sx20 u * Rule.rangeFactor c := scale_eq_mul hc _
  have hpos := rangeFactor_pos c
  rw [hvalue]
  constructor
  · intro hbit
    have hcount : 0 ≤ sx20 u := by
      rw [← Int.not_lt, ← bitNineteen_iff_sx20_neg, hbit]
      exact Bool.false_ne_true
    exact ⟨hcount, Int.mul_nonneg hcount hpos.le⟩
  · intro hbit
    have hcount : sx20 u < 0 := (bitNineteen_iff_sx20_neg u).1 hbit
    exact ⟨hcount, Int.mul_neg_of_neg_of_pos hcount hpos⟩

/-- Settles O15: the two ends of the accept step, and a word with `RSV` not 0 is not legal. -/
theorem decaxisAnswersCountAndValue : Obligations.DecaxisAnswersCountAndValue := by
  unfold Obligations.DecaxisAnswersCountAndValue
  intro s rng b0 b1 b2 hs
  refine ⟨fun hr => exec_decaxis_valid hs hr b0 b1 b2, ?_, fun w hop hrsv => ?_⟩
  · rintro rfl
    rw [exec_idle _ hs, acceptOf_decaxis_invalid, raise_eq_failed]
    rfl
  · have hw : ¬ Rule.legalWord w := fun ⟨hrsv0, _⟩ => hrsv hrsv0
    rw [acceptWord_of_not_legalWord hw, hop]

/-- Settles O16: the one end of the accept step, and a word with `RNG`, `RSV` or `B2` not 0 is not legal. -/
theorem dectempAnswersRawAndRomEntry : Obligations.DectempAnswersRawAndRomEntry := by
  unfold Obligations.DectempAnswersRawAndRomEntry
  intro s hi lo hs
  refine ⟨?_, fun w hop hfields => ?_⟩
  · rw [exec_idle _ hs, acceptOf_dectemp, tlut, tlutInt, traw_toNat, ← header_ok_dectemp]
    rfl
  · have hw : ¬ Rule.legalWord w := by
      unfold Rule.legalWord
      omega
    rw [acceptWord_of_not_legalWord hw, hop]

end Sys2Proof.Proofs
end

section
/-! SUPPORT. The FIFO commands in the arithmetic of the rules: the buffer after a burst (R149), the words of a batch
(R146, R150, R151), the accept checks (R142), and each end of a command in progress with its exact next state (R143 to
R149). -/

namespace Sys2Proof.Machine

/-! ### The buffer -/

theorem getElem?_fillFirst (bytes : List Byte) (buf : Vector Byte Config.bufBytes) (k : Nat) :
    (fillFirst bytes buf)[k]? = ((bytes ++ buf.toList.drop bytes.length).take Config.bufBytes)[k]? := by
  rw [← toList_fillFirst, Vector.getElem?_toList]

/-- The burst lands in the first bytes of `BUF` (R149). -/
theorem getElem?_fillFirst_of_lt {bytes : List Byte} (buf : Vector Byte Config.bufBytes) {k : Nat}
    (hlen : bytes.length ≤ Config.bufBytes) (hk : k < bytes.length) : (fillFirst bytes buf)[k]? = bytes[k]? := by
  rw [getElem?_fillFirst, List.getElem?_take_of_lt (hk.trans_le hlen), List.getElem?_append_left hk]

/-- No byte past the burst changes (R149; log entry 19). -/
theorem getElem?_fillFirst_of_le {bytes : List Byte} (buf : Vector Byte Config.bufBytes) {k : Nat}
    (hk : bytes.length ≤ k) : (fillFirst bytes buf)[k]? = buf[k]? := by
  rw [getElem?_fillFirst, ← Vector.getElem?_toList]
  by_cases hb : k < Config.bufBytes
  · rw [List.getElem?_take_of_lt hb, List.getElem?_append_right hk, List.getElem?_drop, Nat.add_sub_cancel' hk]
  · rw [List.getElem?_take_eq_none (by omega), List.getElem?_eq_none (by simp; omega)]

/-- A burst is at most as long as `BUF` (R148). -/
theorem burstBytes_le (u : BitVec 8) : burstBytes u ≤ Config.bufBytes := by
  have hu := u.isLt
  rw [burstBytes, Config.bufBytes]
  omega

/-! ### The words of a batch -/

theorem tripleCount_toNat (u : BitVec 8) : (tripleCount u).toNat = u.toNat / 3 := by
  have hu := u.isLt
  rw [tripleCount, BitVec.toNat_ofNat]
  omega

/-- `P1` of a drain in plain arithmetic (R151). -/
theorem drainWord_eq (cnt n : BitVec 8) : drainWord cnt n = BitVec.ofNat 32 (cnt.toNat * 256 + n.toNat) := by
  have hc := cnt.isLt
  have hn := n.isLt
  apply BitVec.eq_of_toNat_eq
  simp only [drainWord, toNat_append_eq_add, BitVec.toNat_ofNat]
  omega

/-- Entry `i` of a burst is at bytes `3i` to `3i + 2`: the first entry leaves a burst that is shorter by one (R150). -/
theorem entryWords_succ (c : BitVec 2) (n : Nat) (b0 b1 b2 : Byte) (rest : List Byte) :
    Rule.entryWords c (n + 1) (b0 :: b1 :: b2 :: rest) =
      BitVec.ofInt 32 (Rule.axisFx c b0 b1 b2) :: Rule.entryWords c n rest := by
  rw [Rule.entryWords, List.range_succ_eq_map, List.map_cons, List.map_map]
  rfl

/-- The strides of the batch decoder are the entries of the rule, at a valid range (R150). -/
theorem map_entryValues_eq_entryWords {c : BitVec 2} (hc : c ≠ 0#2) (n : Nat) :
    ∀ bytes : List Byte, bytes.length = 3 * n → (entryValues c bytes).map word32 = Rule.entryWords c n bytes := by
  induction n with
  | zero =>
    intro bytes h
    rw [List.length_eq_zero_iff.1 h]
    rfl
  | succ n ih =>
    intro bytes h
    match bytes, h with
    | b0 :: b1 :: b2 :: rest, h =>
      have hr : rest.length = 3 * n := by
        simp only [List.length_cons] at h
        omega
      rw [entryValues, List.map_cons, ih rest hr, entryWords_succ, axisValue_eq_axisFx hc, word32]

/-- The whole response of a drain, header and payload, word by word (R89, R151). -/
theorem batch_response_words (cnt u : BitVec 8) {c : BitVec 2} (hc : c ≠ 0#2) {bytes : List Byte}
    (h : bytes.length = burstBytes u) :
    header (batch cnt u c bytes).length .ok 4#4 :: batch cnt u c bytes =
      BitVec.ofNat 32 ((1 + u.toNat) * 65536 + 4) :: BitVec.ofNat 32 (cnt.toNat * 256 + u.toNat / 3) ::
        Rule.entryWords c u.toNat bytes := by
  have hu := u.isLt
  have hlen : (batch cnt u c bytes).length = 1 + u.toNat := by
    rw [batch, List.length_cons, List.length_map, length_entryValues c u.toNat bytes h, Nat.add_comm]
  have hheader : header (1 + u.toNat) .ok 4#4 = BitVec.ofNat 32 ((1 + u.toNat) * 65536 + 4) := by
    apply BitVec.eq_of_toNat_eq
    rw [header_toNat_mod, BitVec.toNat_ofNat, statusCode]
    simp only [BitVec.toNat_ofNat]
    omega
  rw [hlen, hheader, batch, drainWord_eq, tripleCount_toNat, map_entryValues_eq_entryWords hc _ _ h]

/-! ### The accept checks -/

theorem acceptOf_fifocnt_notReady {s : State} (h : s.devReady = false) :
    acceptOf .fifocnt s = Rule.failed 3 3 (latch 3#4 0#2 0#24 s) := by
  have e : acceptOf .fifocnt s = raise .notReady (latch 3#4 0#2 0#24 s) := by simp [acceptOf, acceptFifocnt, h]
  rw [e, raise_eq_failed]
  rfl

theorem acceptOf_fifocnt_ready {s : State} (h : s.devReady = true) :
    acceptOf .fifocnt s = requestLock (latch 3#4 0#2 0#24 s) := by
  simp [acceptOf, acceptFifocnt, h]

theorem acceptOf_fifodrain_notReady {s : State} (h : s.devReady = false) (rng : BitVec 2) :
    acceptOf (.fifodrain rng) s = Rule.failed 3 4 (latch 4#4 rng 0#24 s) := by
  have e : acceptOf (.fifodrain rng) s = raise .notReady (latch 4#4 rng 0#24 s) := by
    simp [acceptOf, acceptFifodrain, h]
  rw [e, raise_eq_failed]
  rfl

theorem acceptOf_fifodrain_invalidRange {s : State} (h : s.devReady = true) :
    acceptOf (.fifodrain 0#2) s = Rule.failed 2 4 (latch 4#4 0#2 0#24 s) := by
  rw [acceptOf_invalidRange h rfl (.inr rfl), raise_eq_failed]
  rfl

theorem acceptOf_fifodrain_ready {s : State} (h : s.devReady = true) {rng : BitVec 2} (hr : rng ≠ 0#2) :
    acceptOf (.fifodrain rng) s = requestLock (latch 4#4 rng 0#24 s) := by
  simp [acceptOf, acceptFifodrain, h, hr]

/-- Every accept step latches its command and ends in `RESP` or `LOCK_WAIT` (R141). -/
theorem acceptOf_latches (i : Instr) (s : State) :
    latchedCommand (acceptOf i s) = (i.opCode, i.rangeCode, i.data) ∧
      ((acceptOf i s).st = .resp ∨ (acceptOf i s).st = .lockWait) := by
  rcases acceptOf_cases i s with ⟨p, -, e⟩ | ⟨k, -, e⟩ | ⟨-, -, e⟩ <;> rw [e]
  · exact ⟨rfl, .inl rfl⟩
  · exact ⟨rfl, .inl rfl⟩
  · exact ⟨rfl, .inr rfl⟩

/-! ### The ends of a command in progress -/

/-- A failed transfer is the rules' error entry, and its answer leaves the port (R181, R188). -/
theorem raise_busError_eq_failed (s : State) :
    raise .busError (consumeAnswer s) = { Rule.failed 1 s.opl.toNat s with bresp := none } := by
  rw [raise_eq_failed]
  rfl

/-- An error or an answer that is not one byte ends the command in `CNT_WAIT` with BUS_ERROR (R143). -/
theorem proceed_count_error {s : State} {a : BusAnswer} (hs : s.st = .cntWait) (hb : s.bresp = some a)
    (ha : ∀ c : Byte, a ≠ .ok [c]) : proceed s = { Rule.failed 1 s.opl.toNat s with bresp := none } := by
  rw [proceed_cntWait hs, cntWaitStep_error hb ha, raise_busError_eq_failed]

/-- The count ends a FIFOCNT (R144). -/
theorem proceed_count_fifocnt {s : State} {c : Byte} (hs : s.st = .cntWait) (ho : s.opl = 3#4)
    (hb : s.bresp = some (.ok [c])) :
    proceed s = { s with
      cnt := c, rspq := [0x00010003#32, BitVec.ofNat 32 c.toNat], st := .resp
      lock := false, breq := none, bresp := none } := by
  have hzext : c.setWidth 32 = BitVec.ofNat 32 c.toNat := (BitVec.ofNat_toNat 32 c).symm
  rw [proceed_cntWait hs, cntWaitStep_count hb, countArrived_fifocnt (s := consumeAnswer s) ho, ← hzext,
    ← header_ok_fifocnt, ← ho]
  rfl

/-- A count below 3 ends a FIFODRAIN with an empty batch (R147). -/
theorem proceed_count_drain_empty {s : State} {c : Byte} (hs : s.st = .cntWait) (ho : s.opl = 4#4)
    (hb : s.bresp = some (.ok [c])) (hc : c.toNat < 3) :
    proceed s = { s with
      cnt := c, usable := 0#8, rspq := [0x00010004#32, BitVec.ofNat 32 (c.toNat * 256)], st := .resp
      lock := false, breq := none, bresp := none } := by
  have ho3 : (consumeAnswer s).opl ≠ 3#4 := by simp [ho]
  have hword : BitVec.ofNat 32 (c.toNat * 256) = drainWord c 0#8 := by simp [drainWord_eq]
  rw [proceed_cntWait hs, cntWaitStep_count hb, countArrived_drain_empty ho3 hc, hword, ← header_ok_drain_empty,
    ← (usableOf_eq_zero_iff c).2 hc, ← ho]
  rfl

/-- Another count issues the one burst of a FIFODRAIN (R148). -/
theorem proceed_count_drain_burst {s : State} {c : Byte} (hs : s.st = .cntWait) (ho : s.opl = 4#4)
    (hb : s.bresp = some (.ok [c])) (hc : 3 ≤ c.toNat) :
    proceed s = { s with
      cnt := c, usable := usableOf c, st := .burstWait, bresp := none
      breq := some ⟨0x11#7, BitVec.ofNat 10 (burstBytes (usableOf c))⟩ } := by
  have ho3 : (consumeAnswer s).opl ≠ 3#4 := by simp [ho]
  rw [proceed_cntWait hs, cntWaitStep_count hb, countArrived_drain_burst ho3 hc]
  rfl

/-- An error or an answer of another length ends the command in `BURST_WAIT` with BUS_ERROR (R149). -/
theorem proceed_burst_error {s : State} {a : BusAnswer} (hs : s.st = .burstWait) (hb : s.bresp = some a)
    (ha : ∀ bytes, a = .ok bytes → bytes.length ≠ burstBytes s.usable) :
    proceed s = { Rule.failed 1 s.opl.toNat s with bresp := none } := by
  rw [proceed_burstWait hs, burstWaitStep_error hb ha, raise_busError_eq_failed]

/-- The whole burst ends a FIFODRAIN with the whole batch (R149 to R151). -/
theorem proceed_burst_batch {s : State} {bytes : List Byte} (hs : s.st = .burstWait) (ho : s.opl = 4#4)
    (hr : s.rngl ≠ 0#2) (hb : s.bresp = some (.ok bytes)) (hn : bytes.length = burstBytes s.usable) :
    proceed s = { s with
      buf := fillFirst bytes s.buf, st := .resp, lock := false, breq := none, bresp := none
      rspq := BitVec.ofNat 32 ((1 + s.usable.toNat) * 65536 + 4) ::
        BitVec.ofNat 32 (s.cnt.toNat * 256 + s.usable.toNat / 3) ::
          Rule.entryWords s.rngl s.usable.toNat bytes } := by
  have hdata : burstData (writeBuf bytes (consumeAnswer s)) = bytes := burstData_writeBuf hn
  rw [proceed_burstWait hs, burstWaitStep_batch hb hn, deliverBatch, hdata, ← batch_response_words _ _ hr hn, ← ho]
  rfl

end Sys2Proof.Machine
end

section
/-! SUPPORT. What the steps of the block do not read: `dev_ready` outside `IDLE` (R156), the grant and the answer
port in an accept step (R141); and along which edges they move `ST` (R140), which says when the lock is released
(R157). -/

namespace Sys2Proof.Machine

open Sys2Proof.Safety

/-! ### Ports that are not read -/

/-- The state with `dev_ready` at another level (R27). -/
def setDevReady (b : Bool) (s : State) : State := { s with devReady := b }

theorem countArrived_setDevReady (b : Bool) (c : Byte) (s : State) :
    countArrived c (setDevReady b s) = setDevReady b (countArrived c s) := by
  simp only [countArrived, continueDrain, apply_ite (setDevReady b)]
  rfl

theorem proceed_setDevReady (b : Bool) (s : State) : proceed (setDevReady b s) = setDevReady b (proceed s) := by
  cases h : s.st with
  | idle => simp [proceed, setDevReady, h]
  | lockWait =>
    rw [proceed_lockWait h, proceed_lockWait (s := setDevReady b s) h]
    simp only [lockWaitStep, apply_ite (setDevReady b)]
    rfl
  | cntWait =>
    rw [proceed_cntWait h, proceed_cntWait (s := setDevReady b s) h]
    rcases cntWaitStep_cases s with ⟨hb, e⟩ | ⟨c, hb, e⟩ | ⟨a, hb, ha, e⟩ <;> rw [e]
    · exact cntWaitStep_waits (s := setDevReady b s) hb
    · exact (cntWaitStep_count (s := setDevReady b s) hb).trans (countArrived_setDevReady b c (consumeAnswer s))
    · exact cntWaitStep_error (s := setDevReady b s) hb ha
  | burstWait =>
    rw [proceed_burstWait h, proceed_burstWait (s := setDevReady b s) h]
    rcases burstWaitStep_cases s with ⟨hb, e⟩ | ⟨bytes, hb, hn, e⟩ | ⟨a, hb, ha, e⟩ <;> rw [e]
    · exact burstWaitStep_waits (s := setDevReady b s) hb
    · exact burstWaitStep_batch (s := setDevReady b s) hb hn
    · exact burstWaitStep_error (s := setDevReady b s) hb ha
  | resp =>
    rw [proceed_resp h, proceed_resp (s := setDevReady b s) h]
    simp only [respStep, apply_ite (setDevReady b)]
    rfl

/-- The state with the grant and the answer port at other levels (R26, R28). -/
def setBusPorts (g : Bool) (a : Option BusAnswer) (s : State) : State := { s with busLockGnt := g, bresp := a }

/-- Every branch of an accept step keeps the bus ports, and its checks do not read them (R141). -/
theorem acceptOf_setBusPorts (i : Instr) (g : Bool) (a : Option BusAnswer) (s : State) :
    acceptOf i (setBusPorts g a s) = setBusPorts g a (acceptOf i s) := by
  cases i <;> simp only [acceptOf, acceptDecaxis, acceptDectemp, acceptFifocnt, acceptFifodrain,
    apply_ite (setBusPorts g a)] <;> rfl

/-! ### The two steps that wait for a level -/

/-- The granted `LOCK_WAIT` step issues the count read (R142). -/
theorem sdfrStep_granted {s : State} (hr : s.rst = false) (hs : s.st = .lockWait) (hg : s.busLockGnt = true) :
    sdfrStep s = .next { s with breq := some ⟨0x05#7, 1#10⟩, st := .cntWait } := by
  rw [sdfrStep_busy hr (by simp [hs]), proceed_lockWait hs, lockWaitStep_granted hg]

/-- A response waits for the host (R159). -/
theorem sdfrStep_response_waits {s : State} (hr : s.rst = false) (hs : s.st = .resp) (hready : s.rspReady = false) :
    sdfrStep s = .next s := by
  rw [sdfrStep_busy hr (by simp [hs]), proceed_resp hs, respStep_waits hready]

/-! ### The accept step of a word -/

/-- The state after the word `w` has been accepted, legal or not (R141). -/
def accepted (w : Word) (s : State) : State :=
  match decode w with
  | .ok i => acceptOf i s
  | .error _ => rejectWord w s

theorem accepted_of_ok {w : Word} {i : Instr} (h : decode w = .ok i) (s : State) : accepted w s = acceptOf i s := by
  rw [accepted, h]

theorem accepted_of_error {w : Word} {e : DecodeError} (h : decode w = .error e) (s : State) :
    accepted w s = rejectWord w s := by
  rw [accepted, h]

theorem sdfrStep_accepts {s : State} (hr : s.rst = false) (hs : s.st = .idle) (hv : s.cmdValid = true) :
    sdfrStep s = .next (accepted s.cmdWord s) := by
  rw [sdfrStep_idle hr hs, if_pos hv]
  cases hd : decode s.cmdWord with
  | ok i => rw [acceptWord_ok hd, exec_idle i hs, accepted_of_ok hd]
  | error e => rw [acceptWord_error hd, accepted_of_error hd]

/-- Every word is latched, and its accept step ends in `RESP` or `LOCK_WAIT` (R141). -/
theorem accepted_latches (w : Word) (s : State) :
    latchedCommand (accepted w s) = latchedCommand (Rule.latched w s) ∧
      ((accepted w s).st = .resp ∨ (accepted w s).st = .lockWait) := by
  cases hd : decode w with
  | ok i =>
    rw [accepted_of_ok hd, ← latch_command_eq_latched hd]
    exact acceptOf_latches i s
  | error e =>
    rw [accepted_of_error hd, rejectWord_eq_failed]
    exact ⟨rfl, .inl rfl⟩

theorem accepted_setBusPorts (w : Word) (g : Bool) (a : Option BusAnswer) (s : State) :
    accepted w (setBusPorts g a s) = setBusPorts g a (accepted w s) := by
  cases hd : decode w with
  | ok i => rw [accepted_of_ok hd, accepted_of_ok hd, acceptOf_setBusPorts]
  | error e =>
    rw [accepted_of_error hd, accepted_of_error hd]
    rfl

/-! ### The edges of the transition table -/

theorem edge_of {a b : SeqState} {s : State} (hs : s.st = a) (h : (a, b) ∈ Rule.tableEdges) :
    (s.st, b) ∈ Rule.tableEdges := hs ▸ h

theorem acceptOf_edge (i : Instr) (s : State) : (SeqState.idle, (acceptOf i s).st) ∈ Rule.tableEdges := by
  obtain ⟨-, h | h⟩ := acceptOf_latches i s <;> rw [h] <;> decide

/-- A command in progress leaves its state along a row of R140; a response is left with its last word. -/
theorem proceed_edge {s : State} (hs : s.st ≠ .idle) (hne : (proceed s).st ≠ s.st) :
    (s.st, (proceed s).st) ∈ Rule.tableEdges := by
  rcases proceed_cases s hs with e | ⟨hw, -, e⟩ | ⟨hw, c, -, -, e⟩ | ⟨hw, c, -, -, -, e⟩ | ⟨hw, c, -, -, -, e⟩ |
    ⟨hw, bytes, -, -, e⟩ | ⟨hw | hw, -, e⟩ | ⟨hw, -, e⟩ <;> rw [e] at hne ⊢
  · exact absurd rfl hne
  · exact edge_of (b := .cntWait) hw (by decide)
  · exact edge_of (b := .resp) hw (by decide)
  · exact edge_of (b := .resp) hw (by decide)
  · exact edge_of (b := .burstWait) hw (by decide)
  · exact edge_of (b := .resp) hw (by decide)
  · exact edge_of (b := .resp) hw (by decide)
  · exact edge_of (b := .resp) hw (by decide)
  · have ht : s.rspq.tail = [] := by
      by_contra ht
      simp [hw, ht] at hne
    rw [takeWord_st, if_pos ht]
    exact edge_of hw (by decide)

/-- The block moves `ST` by reset or along a row of R140. -/
theorem sdfrStep_edge {s t : State} (h : sdfrStep s = .next t) (hne : t.st ≠ s.st) :
    (s.rst = true ∧ t.st = .idle) ∨ (s.rst = false ∧ (s.st, t.st) ∈ Rule.tableEdges) := by
  rcases sdfrStep_cases s with ⟨hr, e⟩ | ⟨-, -, -, e⟩ | ⟨hr, hs, -, i, -, e⟩ | ⟨hr, hs, -, -, e⟩ | ⟨hr, hs, e⟩ <;>
    rw [e] at h <;> cases h
  · exact .inl ⟨hr, rfl⟩
  · exact absurd rfl hne
  · exact .inr ⟨hr, hs ▸ acceptOf_edge i s⟩
  · exact .inr ⟨hr, edge_of (b := .resp) hs (by decide)⟩
  · exact .inr ⟨hr, proceed_edge hs hne⟩

/-- When it is the sequencer's move, the step is the sequencer's. -/
theorem step_of_sdfrMoves {s : State} (h : SdfrMoves s) : step s = sdfrStep { s with agenda := s.agenda.tail } := by
  rcases ha : s.agenda with _ | ⟨e, rest⟩
  · rw [step_of_no_agenda ha, List.tail_nil, ← ha]
  · obtain rfl : e = .sdfr := by simpa [SdfrMoves, ha] using h
    rw [step_of_agenda ha]
    rfl

/-! ### The release of the lock -/

/-- The lock is held exactly while a FIFO command uses the bus (R40 (c)). -/
theorem lock_iff_of_sdfrInv {s : State} (h : SdfrInv s) : s.lock = true ↔ s.st ∈ busWorkStates := by
  obtain ⟨⟨-, -, hlock, -⟩, -⟩ := h
  simpa [busWorkStates] using hlock

/-- The edges out of the bus work: with the last answer, from `CNT_WAIT` or `BURST_WAIT` to `RESP` (R140, R157). -/
theorem edge_out_of_busWork {a b : SeqState} (h : (a, b) ∈ Rule.tableEdges) (ha : a ∈ busWorkStates)
    (hb : b ∉ busWorkStates) : b = .resp ∧ (a = .cntWait ∨ a = .burstWait) := by
  cases a <;> cases b <;> simp_all [Rule.tableEdges, busWorkStates]

end Sys2Proof.Machine
end

section
/-! SUPPORT. Runs of the FIFO commands as one sequence (R144, R152): the moves up to the answer to the count read, the
moves of one more answer, and that a response which the host does not take stands. -/

namespace Sys2Proof.Machine

open Sys2Proof.Safety

/-! ### One move, and the moves of a command -/

/-- A run takes the first move of the agenda and goes on from there. -/
theorem run_move (k : Nat) {s t : State} {e : Event} {rest : List Event} (ha : s.agenda = e :: rest)
    (h : agentMove e { s with agenda := rest } = .next t) :
    Host.Core.run Sys2Proof.core (k + 1) s = Host.Core.run Sys2Proof.core k t :=
  run_succ k ((step_of_agenda ha).trans h)

/-- The state with the command `i` at the port, and the moves that follow on the offer (R21). -/
def withOffer (i : Instr) (moves : List Event) (s : State) : State :=
  { s with cmdValid := true, cmdWord := encode i, agenda := moves }

/-- The host offers a command to an idle block, which accepts it. -/
theorem run_accept (k : Nat) (i : Instr) (rest : List Event) {s : State} (hs : s.st = .idle) (hr : s.rst = false) :
    Host.Core.run Sys2Proof.core (k + 2) { s with agenda := .offer (encode i) :: .sdfr :: rest } =
      Host.Core.run Sys2Proof.core k (acceptOf i (withOffer i rest s)) := by
  rw [← accepted_of_ok (decode_encode i), run_move (k + 1) rfl rfl]
  exact run_move k rfl (sdfrStep_accepts (s := withOffer i rest s) hr hs rfl)

/-- The host withdraws its offer, the controller grants the lock, and the block issues the count read (R142). -/
theorem run_grant (k : Nat) {s : State} {rest : List Event}
    (ha : s.agenda = .withdraw :: .grant true :: .sdfr :: rest) (hr : s.rst = false) (hs : s.st = .lockWait) :
    Host.Core.run Sys2Proof.core (k + 3) s = Host.Core.run Sys2Proof.core k { s with
      cmdValid := false, busLockGnt := true, breq := some ⟨0x05#7, 1#10⟩, st := .cntWait, agenda := rest } := by
  rw [run_move (k + 2) ha rfl, run_move (k + 1) rfl rfl]
  exact run_move k rfl (sdfrStep_granted hr hs rfl)

/-- The adapter answers the pending request, and the block takes the answer. -/
theorem run_answer (k : Nat) {s : State} {a : BusAnswer} {rest : List Event}
    (ha : s.agenda = .answer a :: .sdfr :: rest) (hr : s.rst = false) (hs : s.st ≠ .idle) (hb : s.breq ≠ none) :
    Host.Core.run Sys2Proof.core (k + 2) s =
      Host.Core.run Sys2Proof.core k (proceed { s with bresp := some a, agenda := rest }) := by
  have harrives : answerArrives a { s with agenda := .sdfr :: rest } =
      { s with bresp := some a, agenda := .sdfr :: rest } := answerArrives_pending a hb
  rw [run_move (k + 1) ha (congrArg Host.Outcome.next harrives)]
  exact run_move k rfl (sdfrStep_busy hr hs)

/-! ### Up to the answer to the count read -/

/-- The state in which the FIFO command `i`, accepted in `s`, finds the answer `a` to its count read on the port. -/
def counting (i : Instr) (a : BusAnswer) (moves : List Event) (s : State) : State :=
  { s with
    opl := i.opCode, rngl := i.rangeCode, datal := i.data, lock := true, st := .cntWait
    breq := some ⟨0x05#7, 1#10⟩, bresp := some a
    cmdValid := false, cmdWord := encode i, busLockGnt := true, agenda := moves }

/-- A command that asks for the lock goes on, once granted, to the answer of its count read (R142). -/
theorem run_to_count (k : Nat) {i : Instr} (a : BusAnswer) (rest : List Event) {s : State} (hs : s.st = .idle)
    (hr : s.rst = false)
    (hacc : ∀ u, u.devReady = s.devReady → acceptOf i u = requestLock (latch i.opCode i.rangeCode i.data u)) :
    Host.Core.run Sys2Proof.core (k + 7) { s with
        agenda := .offer (encode i) :: .sdfr :: .withdraw :: .grant true :: .sdfr :: .answer a :: .sdfr :: rest } =
      Host.Core.run Sys2Proof.core k (proceed (counting i a rest s)) := by
  rw [run_accept (k + 5) i _ hs hr, hacc (withOffer i _ s) rfl,
    run_grant (s := requestLock (latch i.opCode i.rangeCode i.data (withOffer i _ s))) (k + 2) rfl hr rfl]
  exact run_answer k rfl hr (by simp) (by simp)

/-! ### A response that stands -/

/-- The command has been answered with the words `q`, and holds neither the lock nor the bus. -/
def Answered (q : List Word) (s : State) : Prop :=
  s.st = .resp ∧ s.rspq = q ∧ s.lock = false ∧ s.breq = none ∧ s.bresp = none

/-- The moves that neither take a response word nor reset the block. -/
def keepsResponse : Event → Bool
  | .hostReady _ | .reset _ => false
  | _ => true

/-- A response that the host does not take stands through any one of these moves: the block waits (R159), an answer
finds no request (R211), and the other moves change their own signals. -/
theorem agentMove_keeps_response {q : List Word} {e : Event} (he : keepsResponse e = true) {s : State}
    (hr : s.rst = false) (hready : s.rspReady = false) (h : Answered q s) :
    ∃ t, agentMove e s = .next t ∧ t.agenda = s.agenda ∧ t.rst = false ∧ t.rspReady = false ∧ Answered q t ∧
      t.usable = s.usable ∧ t.buf = s.buf := by
  have ⟨hs, _, _, hb, _⟩ := h
  cases e with
  | hostReady level => cases he
  | reset level => cases he
  | sdfr => exact ⟨s, sdfrStep_response_waits hr hs hready, rfl, hr, hready, h, rfl, rfl⟩
  | answer a => exact ⟨s, congrArg Host.Outcome.next (answerArrives_ignored a hb), rfl, hr, hready, h, rfl, rfl⟩
  | _ => exact ⟨_, rfl, rfl, hr, hready, h, rfl, rfl⟩

/-- As long as the host does not take it, a response stands, and `USABLE` and `BUF` with it (R24, R159). -/
theorem run_keeps_response {q : List Word} (moves : List Event) (hm : ∀ e ∈ moves, keepsResponse e = true) {s : State}
    (ha : s.agenda = moves) (hr : s.rst = false) (hready : s.rspReady = false) (h : Answered q s) :
    ∃ t, Host.Core.run Sys2Proof.core moves.length s = .next t ∧ Answered q t ∧ t.usable = s.usable ∧
      t.buf = s.buf := by
  induction moves generalizing s with
  | nil => exact ⟨s, run_zero s, h, rfl, rfl⟩
  | cons e rest ih =>
    obtain ⟨he, hrest⟩ := List.forall_mem_cons.1 hm
    obtain ⟨u, hmove, hua, hur, hureadyu, hu, husable, hbuf⟩ :=
      agentMove_keeps_response (s := { s with agenda := rest }) he hr hready h
    obtain ⟨t, hrun, ht, htusable, htbuf⟩ := ih hrest hua hur hureadyu hu
    exact ⟨t, (run_move _ ha hmove).trans hrun, ht, htusable.trans husable, htbuf.trans hbuf⟩

/-- A second answer that comes after the response finds no request (R211). -/
theorem run_ignored_answer {q : List Word} {b : BusAnswer} {s : State} (ha : s.agenda = [.answer b, .sdfr])
    (hr : s.rst = false) (hready : s.rspReady = false) (h : Answered q s) :
    ∃ t, Host.Core.run Sys2Proof.core 2 s = .next t ∧ Answered q t := by
  obtain ⟨t, hrun, ht, -⟩ := run_keeps_response _ (by simp [keepsResponse]) ha hr hready h
  exact ⟨t, hrun, ht⟩

/-- A FIFO command refused in its accept step is answered with the error, and neither bus nor lock is touched (R142). -/
theorem run_refused {i : Instr} {code op : Nat} {s : State} (hinv : SdfrInv s) (hs : s.st = .idle) (hr : s.rst = false)
    (hready : s.rspReady = false)
    (hacc : ∀ u, u.devReady = s.devReady →
      acceptOf i u = Rule.failed code op (latch i.opCode i.rangeCode i.data u))
    (moves : List Event) (hm : ∀ e ∈ moves, keepsResponse e = true) :
    ∃ t, Host.Core.run Sys2Proof.core (moves.length + 2) { s with
        agenda := .offer (encode i) :: .sdfr :: moves } = .next t ∧
      Answered [BitVec.ofNat 32 (code * 16 + op)] t ∧ t.usable = s.usable ∧ t.buf = s.buf := by
  obtain ⟨-, -, -, ha⟩ := (sdfrInv_iff_of_idle hs).1 hinv
  rw [run_accept moves.length i moves hs hr, hacc (withOffer i moves s) rfl]
  exact run_keeps_response moves hm rfl hr hready ⟨rfl, rfl, rfl, rfl, ha⟩

/-! ### The responses of the rules, answer by answer -/

theorem countResponse_error {a : BusAnswer} (ha : ∀ c : Byte, a ≠ .ok [c]) :
    Rule.countResponse true a = [0x00000013#32] := by
  unfold Rule.countResponse
  rw [if_neg Bool.noConfusion]
  split
  · next c => exact absurd rfl (ha c)
  · rfl

theorem drainResponse_count_error {rng : BitVec 2} (hr : rng ≠ 0#2) {a : BusAnswer} (ha : ∀ c : Byte, a ≠ .ok [c])
    (b : BusAnswer) : Rule.drainResponse true rng a b = [0x00000014#32] := by
  unfold Rule.drainResponse
  rw [if_neg Bool.noConfusion, if_neg hr]
  split
  · next c => exact absurd rfl (ha c)
  · rfl

theorem drainResponse_empty {rng : BitVec 2} (hr : rng ≠ 0#2) {c : Byte} (hc : c.toNat < 3) (b : BusAnswer) :
    Rule.drainResponse true rng (.ok [c]) b = [0x00010004#32, BitVec.ofNat 32 (c.toNat * 256)] := by
  simp [Rule.drainResponse, hr, hc]

theorem drainResponse_batch {rng : BitVec 2} (hr : rng ≠ 0#2) {c : Byte} (hc : 3 ≤ c.toNat) {bytes : List Byte}
    (hn : bytes.length = burstBytes (usableOf c)) :
    Rule.drainResponse true rng (.ok [c]) (.ok bytes) =
      BitVec.ofNat 32 ((1 + (usableOf c).toNat) * 65536 + 4) ::
        BitVec.ofNat 32 (c.toNat * 256 + (usableOf c).toNat / 3) ::
          Rule.entryWords rng (usableOf c).toNat bytes := by
  have htriples : (c.toNat - c.toNat % 3) / 3 = c.toNat / 3 := by omega
  rw [burstBytes, usableOf_toNat] at hn
  simp [Rule.drainResponse, Rule.batchResponse, hr, Nat.not_lt.2 hc, hn, usableOf_toNat, htriples]

theorem drainResponse_burst_error {rng : BitVec 2} (hr : rng ≠ 0#2) {c : Byte} (hc : 3 ≤ c.toNat) {b : BusAnswer}
    (hb : ∀ bytes, b = .ok bytes → bytes.length ≠ burstBytes (usableOf c)) :
    Rule.drainResponse true rng (.ok [c]) b = [0x00000014#32] := by
  cases b with
  | err => simp [Rule.drainResponse, hr, Nat.not_lt.2 hc]
  | ok bytes =>
    have hn := hb bytes rfl
    rw [burstBytes, usableOf_toNat] at hn
    simp [Rule.drainResponse, hr, Nat.not_lt.2 hc, hn]

/-! ### A FIFODRAIN from its count on -/

/-- The burst that a count of 3 or more asks for is answered, and the answer ends the command (R149). -/
theorem run_drain_burst {rng : BitVec 2} (hrng : rng ≠ 0#2) {c : Byte} (hc : 3 ≤ c.toNat) (b : BusAnswer) {s : State}
    (hr : s.rst = false) :
    ∃ t, Host.Core.run Sys2Proof.core 2
        (proceed (counting (.fifodrain rng) (.ok [c]) [.answer b, .sdfr] s)) = .next t ∧
      Answered (Rule.drainResponse true rng (.ok [c]) b) t := by
  rw [proceed_count_drain_burst rfl rfl rfl hc]
  refine ⟨_, run_answer 0 rfl hr (by simp) (by simp), ?_⟩
  by_cases hb : ∃ bytes, b = .ok bytes ∧ bytes.length = burstBytes (usableOf c)
  · obtain ⟨bytes, rfl, hn⟩ := hb
    rw [proceed_burst_batch rfl rfl hrng rfl hn, drainResponse_batch hrng hc hn]
    exact ⟨rfl, rfl, rfl, rfl, rfl⟩
  · have hb' : ∀ bytes, b = .ok bytes → bytes.length ≠ burstBytes (usableOf c) :=
      fun bytes h hn => hb ⟨bytes, h, hn⟩
    rw [proceed_burst_error rfl rfl hb', drainResponse_burst_error hrng hc hb']
    exact ⟨rfl, rfl, rfl, rfl, rfl⟩

/-- After the answer to the count read a FIFODRAIN ends at once, and a second answer finds no request, or it goes on to
its burst (R143, R145). -/
theorem run_drain_from_count {rng : BitVec 2} (hrng : rng ≠ 0#2) (a b : BusAnswer) {s : State} (hr : s.rst = false)
    (hready : s.rspReady = false) :
    ∃ t, Host.Core.run Sys2Proof.core 2 (proceed (counting (.fifodrain rng) a [.answer b, .sdfr] s)) = .next t ∧
      Answered (Rule.drainResponse true rng a b) t := by
  by_cases ha : ∃ c : Byte, a = .ok [c]
  · obtain ⟨c, rfl⟩ := ha
    by_cases hc : c.toNat < 3
    · rw [proceed_count_drain_empty rfl rfl rfl hc, drainResponse_empty hrng hc]
      exact run_ignored_answer rfl hr hready ⟨rfl, rfl, rfl, rfl, rfl⟩
    · exact run_drain_burst hrng (Nat.le_of_not_lt hc) b hr
  · have ha' : ∀ c : Byte, a ≠ .ok [c] := not_exists.1 ha
    rw [proceed_count_error rfl rfl ha', drainResponse_count_error hrng ha']
    exact run_ignored_answer rfl hr hready ⟨rfl, rfl, rfl, rfl, rfl⟩

end Sys2Proof.Machine
end

section
/-! THE OBLIGATIONS of 41_fifo_reader.md, each from the lemmas above. -/

namespace Sys2Proof.Proofs

open Sys2Proof.Machine Sys2Proof.Safety

/-- Settles O22: the answer is the whole burst, whose batch `proceed_burst_batch` gives, or it is an error. -/
theorem fifodrainDeliversTheWholeBatchOrNone : Obligations.FifodrainDeliversTheWholeBatchOrNone := by
  unfold Obligations.FifodrainDeliversTheWholeBatchOrNone
  rintro s rng a hs ho rfl hr hb
  rw [exec_busy _ (by simp [hs])]
  refine ⟨?_, fun ha => ?_⟩
  · rintro bytes rfl hn
    refine ⟨_, rfl, ?_⟩
    rw [proceed_burst_batch hs ho hr hb hn]
    exact ⟨rfl, fun k hk => getElem?_fillFirst_of_lt _ (hn.trans_le (burstBytes_le _)) hk, rfl⟩
  · rw [proceed_burst_error hs hb ha, ho]
    rfl

/-- Settles O24: the accept step refuses the command, or the run goes on to the answer, which ends it. -/
theorem fifocntRunsToItsResponse : Obligations.FifocntRunsToItsResponse := by
  unfold Obligations.FifocntRunsToItsResponse
  intro s a hinv hs hr hready
  have hword : encode .fifocnt = 0x00000003#32 := by decide
  rw [← hword]
  rcases Bool.eq_false_or_eq_true s.devReady with hd | hd
  · refine ⟨_, run_to_count 0 a [] hs hr fun u hu => acceptOf_fifocnt_ready (hu.trans hd), ?_⟩
    rw [hd]
    by_cases ha : ∃ c : Byte, a = .ok [c]
    · obtain ⟨c, rfl⟩ := ha
      rw [proceed_count_fifocnt rfl rfl rfl]
      refine ⟨rfl, rfl, rfl, rfl, rfl, rfl, rfl, ?_⟩
      rintro c' - ⟨⟩
      rfl
    · have ha' : ∀ c : Byte, a ≠ .ok [c] := not_exists.1 ha
      rw [proceed_count_error rfl rfl ha', countResponse_error ha']
      exact ⟨rfl, rfl, rfl, rfl, rfl, rfl, rfl, fun c _ h => absurd h (ha' c)⟩
  · obtain ⟨t, hrun, ⟨hst, hq, hl, hb, hans⟩, hu, hbuf⟩ := run_refused (code := 3) (op := 3) hinv hs hr hready
      (fun u hu => acceptOf_fifocnt_notReady (hu.trans hd)) [.withdraw, .grant true, .sdfr, .answer a, .sdfr]
      (by simp [keepsResponse])
    refine ⟨t, hrun, hst, ?_, hl, hb, hans, hu, hbuf, ?_⟩ <;> rw [hd]
    · exact hq
    · exact fun _ h => by cases h

/-- Settles O25: the accept step refuses the command for readiness or range, or the run goes on to the count and from
there to its end. -/
theorem fifodrainRunsToItsResponse : Obligations.FifodrainRunsToItsResponse := by
  unfold Obligations.FifodrainRunsToItsResponse
  intro s rng a b hinv hs hr hready
  have hm : ∀ e ∈ [Event.withdraw, .grant true, .sdfr, .answer a, .sdfr, .answer b, .sdfr],
      keepsResponse e = true := by
    simp [keepsResponse]
  rcases Bool.eq_false_or_eq_true s.devReady with hd | hd
  · by_cases hrng : rng = 0#2
    · subst hrng
      obtain ⟨t, hrun, ht, -⟩ := run_refused (code := 2) (op := 4) hinv hs hr hready
        (fun u hu => acceptOf_fifodrain_invalidRange (hu.trans hd)) _ hm
      refine ⟨t, hrun, ?_⟩
      rw [hd]
      exact ht
    · obtain ⟨t, hrun, ht⟩ := run_drain_from_count hrng a b hr hready
      have hcount := run_to_count 2 a [.answer b, .sdfr] hs hr fun u hu => acceptOf_fifodrain_ready (hu.trans hd) hrng
      refine ⟨t, hcount.trans hrun, ?_⟩
      rw [hd]
      exact ht
  · obtain ⟨t, hrun, ht, -⟩ := run_refused (code := 3) (op := 4) hinv hs hr hready
      (fun u hu => acceptOf_fifodrain_notReady (hu.trans hd) rng) _ hm
    refine ⟨t, hrun, ?_⟩
    rw [hd]
    exact ht

/-- Settles O41: the other agents do not move `ST`, and the block moves it along `sdfrStep_edge`. -/
theorem sequencerFollowsTheTable : Obligations.SequencerFollowsTheTable := by
  unfold Obligations.SequencerFollowsTheTable
  intro s t hst hne
  rcases step_cases hst with ⟨hm, hblock⟩ | ⟨e, rest, -, he, hmove⟩
  · exact ⟨hm, sdfrStep_edge (s := { s with agenda := s.agenda.tail }) hblock hne⟩
  · obtain ⟨hsame, -⟩ := agentMove_keeps_registers he hmove
    exact absurd hsame hne

/-- Settles O44: by the invariant the lock says where `ST` is, so a release is a change of `ST`, and O41 says which
changes lead from a state that holds the lock to one that does not. -/
theorem lockIsReleasedExactlyAtTheEnd : Obligations.LockIsReleasedExactlyAtTheEnd := by
  unfold Obligations.LockIsReleasedExactlyAtTheEnd
  intro s t hinv hst
  have hlock := lock_iff_of_sdfrInv hinv
  have hlock' := lock_iff_of_sdfrInv (sdfrInv_step hinv hst)
  have hfree : t.st = .resp ∨ t.st = .idle → t.lock = false := by
    rintro (ht | ht) <;> simpa [ht, busWorkStates] using hlock'
  refine ⟨⟨?_, ?_⟩, hfree⟩
  · rintro ⟨hl, hl'⟩
    have hwork : s.st ∈ busWorkStates := hlock.1 hl
    have hleft : t.st ∉ busWorkStates := fun h => by simp [hlock'.2 h] at hl'
    obtain ⟨hm, ⟨hr, -⟩ | ⟨-, hedge⟩⟩ := sequencerFollowsTheTable s t hst fun h => hleft (h ▸ hwork)
    · exact ⟨hl, hm, .inl hr⟩
    · exact ⟨hl, hm, .inr (edge_out_of_busWork hedge hwork hleft)⟩
  · rintro ⟨hl, hm, hr | ⟨ht, -⟩⟩
    · rw [step_of_sdfrMoves hm, sdfrStep_reset (s := { s with agenda := s.agenda.tail }) hr] at hst
      cases hst
      exact ⟨hl, rfl⟩
    · exact ⟨hl, hfree (.inl ht)⟩

/-- Settles O46: outside `IDLE` neither reset nor the command in progress reads `dev_ready`, and in `IDLE` the accept
checks of the two FIFO commands are cases of it. -/
theorem readinessIsSampledOnlyAtAccept : Obligations.ReadinessIsSampledOnlyAtAccept := by
  unfold Obligations.ReadinessIsSampledOnlyAtAccept
  refine ⟨fun s b hs => ?_, fun s hs => ⟨_, exec_idle _ hs, ?_⟩, fun s rng hs => ⟨_, exec_idle _ hs, ?_⟩⟩
  · change ∃ t, sdfrStep s = .next t ∧ sdfrStep (setDevReady b s) = .next (setDevReady b t)
    cases hr : s.rst with
    | true => exact ⟨resetStep s, sdfrStep_reset hr, sdfrStep_reset (s := setDevReady b s) hr⟩
    | false =>
      refine ⟨proceed s, sdfrStep_busy hr hs, ?_⟩
      rw [sdfrStep_busy (s := setDevReady b s) hr hs, proceed_setDevReady]
  · cases hd : s.devReady with
    | false => simp [acceptOf_fifocnt_notReady hd, Rule.failed]
    | true => simp [acceptOf_fifocnt_ready hd]
  · cases hd : s.devReady with
    | false => simp [acceptOf_fifodrain_notReady hd, Rule.failed]
    | true =>
      by_cases hr : rng = 0#2
      · subst hr
        simp [acceptOf_fifodrain_invalidRange hd, Rule.failed]
      · simp [acceptOf_fifodrain_ready hd hr, hr]

/-- Settles O14: `USABLE` in plain arithmetic. -/
theorem usableIsTheLargestMultipleOfThree : Obligations.UsableIsTheLargestMultipleOfThree := by
  unfold Obligations.UsableIsTheLargestMultipleOfThree
  intro c
  have hc := c.isLt
  rw [tripleCount_toNat, usableOf_toNat]
  refine ⟨rfl, ?_, fun m hm hle => ?_, ?_, ?_⟩ <;> omega

/-- Settles O19: the accept checks in their order, then the granted `LOCK_WAIT` step. -/
theorem fifoPrologueChecksThenLocksThenReads : Obligations.FifoPrologueChecksThenLocksThenReads := by
  unfold Obligations.FifoPrologueChecksThenLocksThenReads
  refine ⟨fun s hs => ?_, fun s rng hs => ?_, fun s hr hs hg => ?_⟩
  · rw [exec_idle _ hs]
    refine ⟨fun hd => ?_, fun hd => ?_⟩
    · rw [acceptOf_fifocnt_notReady hd]
      rfl
    · rw [acceptOf_fifocnt_ready hd]
      rfl
  · rw [exec_idle _ hs]
    refine ⟨fun hd => ?_, fun hd => ?_, fun hd hr => ?_⟩
    · rw [acceptOf_fifodrain_notReady hd]
      rfl
    · rintro rfl
      rw [acceptOf_fifodrain_invalidRange hd]
      rfl
    · rw [acceptOf_fifodrain_ready hd hr]
      rfl
  · exact sdfrStep_granted hr hs hg

/-- Settles O20: `exec` of the command in progress is its next step, which the count or an error ends. -/
theorem fifocntDeliversTheCount : Obligations.FifocntDeliversTheCount := by
  unfold Obligations.FifocntDeliversTheCount
  intro s a hs ho hb
  rw [exec_busy _ (by simp [hs])]
  refine ⟨?_, fun ha => ?_⟩
  · rintro c rfl
    rw [proceed_count_fifocnt hs ho hb]
  · rw [proceed_count_error hs hb ha, ho]
    rfl

/-- Settles O21: the count ends the drain, issues the burst, or is missing. -/
theorem fifodrainCountStepEndsOrBursts : Obligations.FifodrainCountStepEndsOrBursts := by
  unfold Obligations.FifodrainCountStepEndsOrBursts
  rintro s rng a hs ho rfl hb
  rw [exec_busy _ (by simp [hs])]
  refine ⟨?_, ?_, fun ha => ?_⟩
  · rintro c rfl hc
    rw [proceed_count_drain_empty hs ho hb hc]
  · rintro c rfl hc
    rw [proceed_count_drain_burst hs ho hb hc, burstBytes, usableOf_toNat, usableOf]
  · rw [proceed_count_error hs hb ha, ho]
    rfl

/-- Settles O23: a whole burst is filled into the first bytes of `BUF`, whatever the command. -/
theorem burstKeepsTheRestOfTheBuffer : Obligations.BurstKeepsTheRestOfTheBuffer := by
  unfold Obligations.BurstKeepsTheRestOfTheBuffer
  intro s rng bytes hs hb hn
  refine ⟨proceed s, exec_busy _ (by simp [hs]), fun k hk => ?_⟩
  rw [proceed_burstWait hs, burstWaitStep_batch hb hn]
  exact getElem?_fillFirst_of_le s.buf hk

/-- Settles O28: the accept step of the word's command, or its rejection, latches the word, and neither reads the grant
or the answer port. -/
theorem acceptLatchesEveryWord : Obligations.AcceptLatchesEveryWord := by
  unfold Obligations.AcceptLatchesEveryWord
  intro s ha hr hs hv
  obtain ⟨hlatched, hst⟩ := accepted_latches s.cmdWord s
  obtain ⟨hopl, hrngl, hdatal⟩ : _ ∧ _ ∧ _ := by simpa only [latchedCommand, Prod.mk.injEq] using hlatched
  refine ⟨accepted s.cmdWord s, ?_, hopl, hrngl, hdatal, hst, fun g a => ?_⟩
  · rw [step_of_no_agenda ha, sdfrStep_accepts hr hs hv]
  · change step (setBusPorts g a s) = .next (setBusPorts g a (accepted s.cmdWord s))
    rw [← accepted_setBusPorts, step_of_no_agenda (s := setBusPorts g a s) ha,
      sdfrStep_accepts (s := setBusPorts g a s) hr hs hv]
    rfl

/-- Settles O33: the step takes the head, and the queue that is left says whether it was the last word. -/
theorem responseStepTakesTheHead : Obligations.ResponseStepTakesTheHead := by
  unfold Obligations.ResponseStepTakesTheHead
  intro s w rest ha hr hs hready hq
  refine ⟨by simp [rspWord, hs, hq], by simp [rspLast, hq], ?_⟩
  rw [step_takes_word ha hr hs hready, takeWord, hq, List.tail_cons]

/-- Settles O35: each wait of R159 by the lemma of its state. -/
theorem waitsChangeNothing : Obligations.WaitsChangeNothing := by
  unfold Obligations.WaitsChangeNothing
  intro s ha hr hwait
  rw [step_of_no_agenda ha]
  rcases hwait with ⟨hs, hv⟩ | ⟨hs, hg⟩ | ⟨hs | hs, hb⟩ | ⟨hs, hready⟩
  · simp [sdfrStep_idle hr hs, hv]
  · rw [sdfrStep_busy hr (by simp [hs]), proceed_lockWait hs, lockWaitStep_waits hg]
  · rw [sdfrStep_busy hr (by simp [hs]), proceed_cntWait hs, cntWaitStep_waits hb]
  · rw [sdfrStep_busy hr (by simp [hs]), proceed_burstWait hs, burstWaitStep_waits hb]
  · exact sdfrStep_response_waits hr hs hready

end Sys2Proof.Proofs
end

section
/-! SUPPORT. The errors of 60_exceptions.md: the check that an accept step fails first (R187), that every response the
block enters is a success or an error entry (R188), and that every move of every agent answers a next state (R189). -/

namespace Sys2Proof.Machine

/-! ### The first check that fails -/

/-- The status of the first check that the accept step of a command fails, if any: readiness before the range (R187). -/
def acceptError (i : Instr) (ready : Bool) : Option Status :=
  match i with
  | .decaxis rng _ _ _ => if rng = 0#2 then some .invalidRange else none
  | .dectemp _ _ => none
  | .fifocnt => if ready then none else some .notReady
  | .fifodrain rng => if ready then (if rng = 0#2 then some .invalidRange else none) else some .notReady

theorem acceptOf_of_acceptError {i : Instr} {s : State} {k : Status} (h : acceptError i s.devReady = some k) :
    acceptOf i s = raise k (latch i.opCode i.rangeCode i.data s) := by
  cases i with
  | dectemp hi lo => simp [acceptError] at h
  | decaxis rng b0 b1 b2 =>
    obtain ⟨rfl, rfl⟩ : rng = 0#2 ∧ Status.invalidRange = k := by simpa [acceptError] using h
    rfl
  | fifocnt =>
    obtain ⟨hd, rfl⟩ : s.devReady = false ∧ Status.notReady = k := by simpa [acceptError] using h
    simp [acceptOf, acceptFifocnt, hd, Instr.opCode, Instr.rangeCode, Instr.data]
  | fifodrain rng =>
    cases hd : s.devReady with
    | false =>
      obtain rfl : Status.notReady = k := by simpa [acceptError, hd] using h
      simp [acceptOf, acceptFifodrain, hd, Instr.opCode, Instr.rangeCode, Instr.data]
    | true =>
      obtain ⟨rfl, rfl⟩ : rng = 0#2 ∧ Status.invalidRange = k := by simpa [acceptError, hd] using h
      exact acceptOf_invalidRange hd rfl (.inr rfl)

/-- A FIFO command that fails no check asks for the lock (R142). -/
theorem acceptOf_requests_lock {i : Instr} {s : State} (h : acceptError i s.devReady = none)
    (hop : i.opCode.toNat = 3 ∨ i.opCode.toNat = 4) :
    acceptOf i s = requestLock (latch i.opCode i.rangeCode i.data s) := by
  cases i with
  | decaxis rng b0 b1 b2 => simp [Instr.opCode] at hop
  | dectemp hi lo => simp [Instr.opCode] at hop
  | fifocnt => exact acceptOf_fifocnt_ready (by simpa [acceptError] using h)
  | fifodrain rng =>
    have hd : s.devReady = true := by
      by_contra hd
      simp [acceptError, hd] at h
    exact acceptOf_fifodrain_ready hd (by simpa [acceptError, hd] using h)

/-- A decode command that fails no check answers OK at once (R104, R107). -/
theorem acceptOf_answers_ok {i : Instr} {s : State} (h : acceptError i s.devReady = none)
    (hop : i.opCode.toNat = 1 ∨ i.opCode.toNat = 2) :
    ∃ p, acceptOf i s = emit .ok p (latch i.opCode i.rangeCode i.data s) := by
  cases i with
  | decaxis rng b0 b1 b2 =>
    have hr : rng ≠ 0#2 := by simpa [acceptError] using h
    exact ⟨_, by rw [acceptOf_decaxis_valid hr, ← append_eq_dataOf]; rfl⟩
  | dectemp hi lo => exact ⟨_, rfl⟩
  | fifocnt => simp [Instr.opCode] at hop
  | fifodrain rng => simp [Instr.opCode] at hop

/-- The fields of the word of a command, as R187 reads them. -/
theorem toNat_fields_of_decode {w : Word} {i : Instr} (h : decode w = .ok i) :
    w.toNat % 16 = i.opCode.toNat ∧ (w.toNat / 16 % 4 = 0 ↔ i.rangeCode = 0#2) := by
  obtain ⟨-, hop, hrng, -⟩ := hasFields_of_decode h
  rw [← hop, ← hrng, ← BitVec.toNat_inj, opField_toNat, rngField_toNat]
  exact ⟨rfl, Iff.rfl⟩

/-- On the word of a command, the status R187 names is that of the first failed check. -/
theorem acceptStatus_iff_acceptError {w : Word} {i : Instr} (h : decode w = .ok i) (ready : Bool) (code : Nat) :
    Rule.acceptStatus w ready code ↔ ∃ k, acceptError i ready = some k ∧ code = (statusCode k).toNat := by
  have hlegal : Rule.legalWord w := (exists_decode_iff_legalWord w).1 ⟨i, h⟩
  obtain ⟨hop, hrng⟩ := toNat_fields_of_decode h
  simp only [Rule.acceptStatus, hlegal, hop, hrng]
  cases i with
  | decaxis rng b0 b1 b2 =>
    by_cases hr : rng = 0#2 <;> simp [acceptError, Instr.opCode, Instr.rangeCode, statusCode, hr]
  | dectemp hi lo => simp [acceptError, Instr.opCode]
  | fifocnt => cases ready <;> simp [acceptError, Instr.opCode, statusCode]
  | fifodrain rng =>
    cases ready with
    | false => simp [acceptError, Instr.opCode, statusCode]
    | true => by_cases hr : rng = 0#2 <;> simp [acceptError, Instr.opCode, Instr.rangeCode, statusCode, hr]

/-- The first error that applies to an accepted word is the one answered (R187). -/
theorem accepted_of_acceptStatus {w : Word} {s : State} {code : Nat} (h : Rule.acceptStatus w s.devReady code) :
    accepted w s = Rule.failed code (w.toNat % 16) (Rule.latched w s) := by
  cases hd : decode w with
  | error e =>
    have hw : ¬ Rule.legalWord w := by simp [← exists_decode_iff_legalWord, hd]
    obtain rfl : code = 4 := by simpa [Rule.acceptStatus, hw] using h
    rw [accepted_of_error hd, rejectWord_eq_failed]
  | ok i =>
    obtain ⟨k, hk, rfl⟩ := (acceptStatus_iff_acceptError hd _ _).1 h
    rw [accepted_of_ok hd, acceptOf_of_acceptError hk, latch_command_eq_latched hd, raise_latched]

/-- A word to which no error applies is a command that fails no check. -/
theorem exists_command_of_no_acceptStatus {w : Word} {ready : Bool} (h : ∀ code, ¬ Rule.acceptStatus w ready code) :
    ∃ i, decode w = .ok i ∧ acceptError i ready = none := by
  have hw : Rule.legalWord w := by
    by_contra hw
    exact h 4 (.inl ⟨hw, rfl⟩)
  obtain ⟨i, hd⟩ := (exists_decode_iff_legalWord w).2 hw
  refine ⟨i, hd, Option.eq_none_iff_forall_ne_some.2 fun k hk => ?_⟩
  exact h _ ((acceptStatus_iff_acceptError hd ready _).2 ⟨k, hk, rfl⟩)

/-- An error of the bus ends the command in either wait for an answer (R143, R149, R181). -/
theorem step_of_bus_error {s : State} (ha : s.agenda = []) (hr : s.rst = false)
    (hs : s.st = .cntWait ∨ s.st = .burstWait) (hb : s.bresp = some .err) :
    step s = .next (raise .busError (consumeAnswer s)) := by
  rw [step_of_no_agenda ha]
  rcases hs with hs | hs
  · rw [sdfrStep_busy hr (by simp [hs]), proceed_cntWait hs, cntWaitStep_error hb (by simp)]
  · rw [sdfrStep_busy hr (by simp [hs]), proceed_burstWait hs, burstWaitStep_error hb (by simp)]

theorem raise_status (k : Status) (s : State) : (raise k s).rspq.map headerStatus = [statusCode k] := by
  rw [raise_rspq, List.map_singleton, headerStatus_header]

/-! ### The two kinds of response -/

/-- `t` is the error entry of `s` with status `k`: nothing but a latched command and the consumption of an answer comes
before `raise` (R188). -/
def EntersError (k : Status) (s t : State) : Prop :=
  ∃ op rng data a, t = raise k { latch op rng data s with bresp := a }

theorem entersError_latch (k : Status) (op : BitVec 4) (rng : BitVec 2) (data : BitVec 24) (s : State) :
    EntersError k s (raise k (latch op rng data s)) :=
  ⟨op, rng, data, s.bresp, rfl⟩

theorem entersError_consumeAnswer (k : Status) (s : State) : EntersError k s (raise k (consumeAnswer s)) :=
  ⟨s.opl, s.rngl, s.datal, none, rfl⟩

/-- `t` holds a response that `s` has just been given: an OK response, or an error entry of `s`. -/
def EntersResponse (s t : State) : Prop :=
  (∃ p u, t = emit .ok p u) ∨ ∃ k, EntersError k s t

theorem entersResponse_acceptOf (i : Instr) {s : State} (ht : (acceptOf i s).st = .resp) :
    EntersResponse s (acceptOf i s) := by
  rcases acceptOf_cases i s with ⟨p, -, e⟩ | ⟨k, -, e⟩ | ⟨-, -, e⟩ <;> rw [e] at ht ⊢
  · exact .inl ⟨p, _, rfl⟩
  · exact .inr ⟨k, entersError_latch k _ _ _ s⟩
  · cases ht

theorem entersResponse_proceed {s : State} (hi : s.st ≠ .idle) (hs : s.st ≠ .resp) (ht : (proceed s).st = .resp) :
    EntersResponse s (proceed s) := by
  rcases proceed_cases s hi with e | ⟨-, -, e⟩ | ⟨-, c, -, -, e⟩ | ⟨-, c, -, -, -, e⟩ | ⟨-, c, -, -, -, e⟩ |
    ⟨-, bytes, -, -, e⟩ | ⟨-, -, e⟩ | ⟨hw, -, -⟩
  · exact absurd (e ▸ ht) hs
  · rw [e] at ht
    cases ht
  · exact .inl ⟨_, _, e⟩
  · exact .inl ⟨_, _, e⟩
  · rw [e] at ht
    cases ht
  · exact .inl ⟨_, _, e⟩
  · rw [e]
    exact .inr ⟨.busError, entersError_consumeAnswer .busError s⟩
  · exact absurd hw hs

theorem entersResponse_sdfrStep {s t : State} (hst : sdfrStep s = .next t) (hs : s.st ≠ .resp) (ht : t.st = .resp) :
    EntersResponse s t := by
  rcases sdfrStep_cases s with ⟨-, e⟩ | ⟨-, -, -, e⟩ | ⟨-, -, -, i, -, e⟩ | ⟨-, -, -, -, e⟩ | ⟨-, hb, e⟩ <;>
    rw [e] at hst <;> cases hst
  · cases ht
  · exact absurd ht hs
  · exact entersResponse_acceptOf i ht
  · exact .inr ⟨.illegalCmd, entersError_latch .illegalCmd _ _ _ s⟩
  · exact entersResponse_proceed hb hs ht

/-- The other agents do not move `ST`, so a step that enters `RESP` is the block's. -/
theorem entersResponse_step {s t : State} (hst : step s = .next t) (hs : s.st ≠ .resp) (ht : t.st = .resp) :
    EntersResponse { s with agenda := s.agenda.tail } t := by
  rcases step_cases hst with ⟨-, hblock⟩ | ⟨e, rest, -, he, hm⟩
  · exact entersResponse_sdfrStep hblock hs ht
  · obtain ⟨hsame, -⟩ := agentMove_keeps_registers he hm
    exact absurd (hsame.symm.trans ht) hs

/-! ### No stop -/

theorem sdfrStep_answers (s : State) : ∃ t, sdfrStep s = .next t := by
  rcases sdfrStep_cases s with ⟨-, e⟩ | ⟨-, -, -, e⟩ | ⟨-, -, -, i, -, e⟩ | ⟨-, -, -, -, e⟩ | ⟨-, -, e⟩ <;>
    exact ⟨_, e⟩

theorem agentMove_answers (e : Event) (s : State) : ∃ t, agentMove e s = .next t := by
  cases e with
  | sdfr => exact sdfrStep_answers s
  | _ => exact ⟨_, rfl⟩

end Sys2Proof.Machine
end

section
/-! THE OBLIGATIONS of 60_exceptions.md, each from the lemmas above. -/

namespace Sys2Proof.Proofs

open Sys2Proof.Machine

/-- Settles O30: the rules' status is that of the first failed check of the accept step, and a word without one goes on
as its command does. -/
theorem firstApplicableErrorIsReported : Obligations.FirstApplicableErrorIsReported := by
  unfold Obligations.FirstApplicableErrorIsReported
  refine ⟨fun s ha hr hs hv => ?_, fun s ha hr hs hb => ?_, fun s ha hr hs hb => ?_⟩
  · rw [step_of_no_agenda ha, sdfrStep_accepts hr hs hv]
    refine ⟨fun code hcode => by rw [accepted_of_acceptStatus hcode], fun hnone => ?_⟩
    obtain ⟨i, hd, hi⟩ := exists_command_of_no_acceptStatus hnone
    obtain ⟨hop, -⟩ := toNat_fields_of_decode hd
    rw [hop, accepted_of_ok hd]
    refine ⟨_, rfl, fun hfifo => ?_, fun hdecode => ?_⟩
    · rw [acceptOf_requests_lock hi hfifo]
      exact ⟨rfl, rfl⟩
    · obtain ⟨p, e⟩ := acceptOf_answers_ok hi hdecode
      rw [e]
      exact ⟨rfl, _, p, rfl, headerStatus_header _ _ _⟩
  · exact ⟨_, step_of_bus_error ha hr (.inl hs) hb, rfl, rfl, raise_status _ _⟩
  · exact ⟨_, step_of_bus_error ha hr (.inr hs) hb, rfl, rfl, raise_status _ _⟩

/-- Settles O31: a response whose status is not OK is an error entry, and `raise` writes no more than R188 says. -/
theorem errorsChangeNothingElse : Obligations.ErrorsChangeNothingElse := by
  unfold Obligations.ErrorsChangeNothingElse
  intro s t h p hst hs ht hq hstatus
  rcases entersResponse_step hst hs ht with ⟨p', u, rfl⟩ | ⟨k, op, rng, data, a, rfl⟩
  · obtain ⟨rfl, -⟩ := List.cons.inj hq
    exact absurd (headerStatus_header _ .ok _) hstatus
  · obtain ⟨rfl, rfl⟩ := List.cons.inj hq
    exact ⟨rfl, headerOp_header _ _ _, headerPlen_header _ _ _, rfl⟩

/-- Settles O40: the sequencer's step and every other agent's move answer a next state. -/
theorem nothingStopsTheMachine : Obligations.NothingStopsTheMachine := by
  unfold Obligations.NothingStopsTheMachine
  intro s
  cases ha : s.agenda with
  | nil =>
    rw [step_of_no_agenda ha]
    exact sdfrStep_answers s
  | cons e rest =>
    rw [step_of_agenda ha]
    exact agentMove_answers e _

end Sys2Proof.Proofs
end

section
/-! SUPPORT. The outputs (R39) of a block that holds no command, as reset leaves it (R210). -/

namespace Sys2Proof.Machine

theorem outputs_of_idle {s : State} (hs : s.st = .idle) (hl : s.lock = false) (hb : s.breq = none) :
    cmdReady s = true ∧ rspValid s = false ∧ busLockReq s = false ∧ breqValid s = false := by
  simp [cmdReady, rspValid, busLockReq, breqValid, hs, hl, hb]

theorem step_reset {s : State} (ha : s.agenda = []) (hr : s.rst = true) : step s = .next (resetStep s) :=
  (step_of_no_agenda ha).trans (sdfrStep_reset hr)

end Sys2Proof.Machine
end

section
/-! THE OBLIGATION of 70_reset_and_hazards.md, from the lemmas above. -/

namespace Sys2Proof.Proofs

open Sys2Proof.Machine

/-- Settles O36: the step is `resetStep`, whose registers are those of an idle block and whose input ports, but for the
emptied answer port, are those of `s`. -/
theorem resetAbandonsEverything : Obligations.ResetAbandonsEverything := by
  unfold Obligations.ResetAbandonsEverything
  intro s ha hr
  obtain ⟨hready, hvalid, hlock, hreq⟩ := outputs_of_idle (resetStep_st s) (resetStep_lock s) (resetStep_breq s)
  exact ⟨resetStep s, step_reset ha hr, resetStep_st s, resetStep_rspq s, resetStep_lock s, resetStep_breq s,
    resetStep_bresp s, hready, hvalid, hlock, hreq, resetStep_cmdValid s, resetStep_cmdWord s, resetStep_rspReady s,
    resetStep_devReady s, resetStep_busLockGnt s, resetStep_rst s⟩

end Sys2Proof.Proofs
end
